-- ==== Sys2Proof/Word.lean ====
section
/-! DEFINITION. The two word types of the core (spec/00_scope.md R6): the byte and the 16-bit address. -/

namespace Sys2Proof

/-- Data, A, X, Y, SP and P are 8 bits wide (R6). -/
abbrev Byte := BitVec 8

/-- PC and every address are 16 bits wide (R6). -/
abbrev Addr := BitVec 16

end Sys2Proof
end

