-- ==== Sys2Proof/Syntax.lean ====
section
/-! DEFINITION. The syntax of the instruction set (spec/30_encoding.md R80-R87, spec/41_addressing_modes.md R120): the mode
tags, the operand forms with their operand bytes, and the one inductive of instructions. A row of spec/opcode_table.json is
a constructor of `Instr` applied to an operand form; for an unofficial row the constructor also holds the opcode byte. -/

namespace Sys2Proof

/-- The 13 addressing-mode tags (R120). -/
inductive Mode
  | imp | acc | imm | zp | zpx | zpy | abs | abx | aby | ind | izx | izy | rel
deriving DecidableEq, Repr

/-- The forms that name a byte of memory: each resolves to `Mem(ea)` by R125-R130, R132 and R133. -/
inductive MemMode
  | zp (z : Byte)
  | zpx (z : Byte)
  | zpy (z : Byte)
  | abs (a : Addr)
  | abx (a : Addr)
  | aby (a : Addr)
  | izx (z : Byte)
  | izy (z : Byte)
deriving DecidableEq, Repr

/-- The operand of an instruction that only reads it: an immediate byte (R124) or a byte of memory. -/
inductive ReadOperand
  | imm (v : Byte)
  | mem (m : MemMode)
deriving DecidableEq, Repr

/-- The operand of a shift or rotate: the accumulator (R123) or a byte of memory. -/
inductive RmwOperand
  | acc
  | mem (m : MemMode)
deriving DecidableEq, Repr

/-- The operand of JMP: the target itself (R128) or the pointer to it (R131). -/
inductive JumpOperand
  | abs (a : Addr)
  | ind (a : Addr)
deriving DecidableEq, Repr

/-- Any operand form. An unofficial entry may have any of the 13 modes, because its mode is the parameter `UNOFF_SHAPE`
(spec/47_unofficial.md R273). -/
inductive Operand
  | imp
  | acc
  | imm (v : Byte)
  | mem (m : MemMode)
  | ind (a : Addr)
  | rel (off : Byte)
deriving DecidableEq, Repr

/-- What `UNOFF_SHAPE` gives for one unofficial opcode (R273). -/
structure Shape where
  mode : Mode
  cycles : Nat
  pagePenalty : Bool
deriving DecidableEq, Repr

/-- The instructions. The first 56 constructors are the official mnemonics (R86); the others are the unofficial ones (R87),
each with the opcode byte that was fetched and the operand bytes its shape gives it. -/
inductive Instr
  -- load, store, transfer (R140-R151)
  | lda (o : ReadOperand)
  | ldx (o : ReadOperand)
  | ldy (o : ReadOperand)
  | sta (m : MemMode)
  | stx (m : MemMode)
  | sty (m : MemMode)
  | tax
  | tay
  | txa
  | tya
  | tsx
  | txs
  -- arithmetic, logic, compare (R162-R171)
  | adc (o : ReadOperand)
  | sbc (o : ReadOperand)
  | and (o : ReadOperand)
  | ora (o : ReadOperand)
  | eor (o : ReadOperand)
  | bit (m : MemMode)
  | cmp (o : ReadOperand)
  | cpx (o : ReadOperand)
  | cpy (o : ReadOperand)
  -- shift, rotate, increment, decrement (R180-R189)
  | asl (o : RmwOperand)
  | lsr (o : RmwOperand)
  | rol (o : RmwOperand)
  | ror (o : RmwOperand)
  | inc (m : MemMode)
  | dec (m : MemMode)
  | inx
  | iny
  | dex
  | dey
  -- control transfer (R201-R213)
  | bpl (off : Byte)
  | bmi (off : Byte)
  | bvc (off : Byte)
  | bvs (off : Byte)
  | bcc (off : Byte)
  | bcs (off : Byte)
  | bne (off : Byte)
  | beq (off : Byte)
  | jmp (t : JumpOperand)
  | jsr (a : Addr)
  | rts
  | rti
  | brk
  -- stack, flags, no-operation (R230-R241)
  | pha
  | php
  | pla
  | plp
  | clc
  | sec
  | cli
  | sei
  | cld
  | sed
  | clv
  | nop
  -- unofficial (R251-R272)
  | kil (op : Byte) (o : Operand)
  | slo (op : Byte) (o : Operand)
  | rla (op : Byte) (o : Operand)
  | sre (op : Byte) (o : Operand)
  | rra (op : Byte) (o : Operand)
  | sax (op : Byte) (o : Operand)
  | lax (op : Byte) (o : Operand)
  | dcp (op : Byte) (o : Operand)
  | isc (op : Byte) (o : Operand)
  | anc (op : Byte) (o : Operand)
  | alr (op : Byte) (o : Operand)
  | arr (op : Byte) (o : Operand)
  | xaa (op : Byte) (o : Operand)
  | lxa (op : Byte) (o : Operand)
  | axs (op : Byte) (o : Operand)
  | usbc (op : Byte) (o : Operand)
  | ahx (op : Byte) (o : Operand)
  | shy (op : Byte) (o : Operand)
  | shx (op : Byte) (o : Operand)
  | tas (op : Byte) (o : Operand)
  | las (op : Byte) (o : Operand)
  | nopUnofficial (op : Byte) (o : Operand)
deriving DecidableEq, Repr

/-- The mode tag of a memory form (R120). -/
def MemMode.mode : MemMode → Mode
  | .zp _ => .zp
  | .zpx _ => .zpx
  | .zpy _ => .zpy
  | .abs _ => .abs
  | .abx _ => .abx
  | .aby _ => .aby
  | .izx _ => .izx
  | .izy _ => .izy

/-- The mode tag of any operand form (R120). -/
def Operand.mode : Operand → Mode
  | .imp => .imp
  | .acc => .acc
  | .imm _ => .imm
  | .mem m => m.mode
  | .ind _ => .ind
  | .rel _ => .rel

def ReadOperand.toOperand : ReadOperand → Operand
  | .imm v => .imm v
  | .mem m => .mem m

def RmwOperand.toOperand : RmwOperand → Operand
  | .acc => .acc
  | .mem m => .mem m

def JumpOperand.toOperand : JumpOperand → Operand
  | .abs a => .mem (.abs a)
  | .ind a => .ind a

/-- The opcode byte an unofficial instruction was fetched as and its operand; nothing for an official instruction. -/
def Instr.unofficial? : Instr → Option (Byte × Operand)
  | .kil op o | .slo op o | .rla op o | .sre op o | .rra op o | .sax op o | .lax op o | .dcp op o | .isc op o
  | .anc op o | .alr op o | .arr op o | .xaa op o | .lxa op o | .axs op o | .usbc op o | .ahx op o | .shy op o
  | .shx op o | .tas op o | .las op o | .nopUnofficial op o => some (op, o)
  | .lda _ | .ldx _ | .ldy _ | .sta _ | .stx _ | .sty _ | .tax | .tay | .txa | .tya | .tsx | .txs
  | .adc _ | .sbc _ | .and _ | .ora _ | .eor _ | .bit _ | .cmp _ | .cpx _ | .cpy _
  | .asl _ | .lsr _ | .rol _ | .ror _ | .inc _ | .dec _ | .inx | .iny | .dex | .dey
  | .bpl _ | .bmi _ | .bvc _ | .bvs _ | .bcc _ | .bcs _ | .bne _ | .beq _ | .jmp _ | .jsr _ | .rts | .rti | .brk
  | .pha | .php | .pla | .plp | .clc | .sec | .cli | .sei | .cld | .sed | .clv | .nop => none

/-- The operand form of an instruction, whatever its constructor. -/
def Instr.operand : Instr → Operand
  | .lda o | .ldx o | .ldy o | .adc o | .sbc o | .and o | .ora o | .eor o | .cmp o | .cpx o | .cpy o => o.toOperand
  | .sta m | .stx m | .sty m | .bit m | .inc m | .dec m => .mem m
  | .asl o | .lsr o | .rol o | .ror o => o.toOperand
  | .bpl off | .bmi off | .bvc off | .bvs off | .bcc off | .bcs off | .bne off | .beq off => .rel off
  | .jmp t => t.toOperand
  | .jsr a => .mem (.abs a)
  | .tax | .tay | .txa | .tya | .tsx | .txs | .inx | .iny | .dex | .dey | .rts | .rti | .brk
  | .pha | .php | .pla | .plp | .clc | .sec | .cli | .sei | .cld | .sed | .clv | .nop => .imp
  | .kil _ o | .slo _ o | .rla _ o | .sre _ o | .rra _ o | .sax _ o | .lax _ o | .dcp _ o | .isc _ o
  | .anc _ o | .alr _ o | .arr _ o | .xaa _ o | .lxa _ o | .axs _ o | .usbc _ o | .ahx _ o | .shy _ o
  | .shx _ o | .tas _ o | .las _ o | .nopUnofficial _ o => o

/-- The mode tag of an instruction. -/
def Instr.mode (i : Instr) : Mode := i.operand.mode

end Sys2Proof
end

