-- ==== Sys2Proof/WellFormed.lean ====
section
/-! DEFINITION. Which instructions the opcode table has a row for (spec/30_encoding.md R86, R87): an official mnemonic with one
of its modes, or an unofficial mnemonic with one of its opcode bytes and the mode `UNOFF_SHAPE` gives that byte (R273). -/

namespace Sys2Proof

/-- The modes of ORA, AND, EOR, ADC, LDA, CMP and SBC (R86). -/
def readModes : List Mode := [.imm, .zp, .zpx, .abs, .abx, .aby, .izx, .izy]

/-- The modes of ASL, LSR, ROL and ROR (R86). -/
def shiftModes : List Mode := [.acc, .zp, .zpx, .abs, .abx]

/-- The modes of INC and DEC (R86). -/
def incModes : List Mode := [.zp, .zpx, .abs, .abx]

/-- The modes R86 gives an official mnemonic. Forms whose type admits one mode only are listed too. -/
def Instr.officialModes : Instr → List Mode
  | .lda _ | .adc _ | .sbc _ | .and _ | .ora _ | .eor _ | .cmp _ => readModes
  | .ldx _ => [.imm, .zp, .zpy, .abs, .aby]
  | .ldy _ => [.imm, .zp, .zpx, .abs, .abx]
  | .sta _ => [.zp, .zpx, .abs, .abx, .aby, .izx, .izy]
  | .stx _ => [.zp, .zpy, .abs]
  | .sty _ => [.zp, .zpx, .abs]
  | .bit _ => [.zp, .abs]
  | .cpx _ | .cpy _ => [.imm, .zp, .abs]
  | .asl _ | .lsr _ | .rol _ | .ror _ => shiftModes
  | .inc _ | .dec _ => incModes
  | .bpl _ | .bmi _ | .bvc _ | .bvs _ | .bcc _ | .bcs _ | .bne _ | .beq _ => [.rel]
  | .jmp _ => [.abs, .ind]
  | .jsr _ => [.abs]
  | .tax | .tay | .txa | .tya | .tsx | .txs | .inx | .iny | .dex | .dey | .rts | .rti | .brk
  | .pha | .php | .pla | .plp | .clc | .sec | .cli | .sei | .cld | .sed | .clv | .nop => [.imp]
  | .kil _ _ | .slo _ _ | .rla _ _ | .sre _ _ | .rra _ _ | .sax _ _ | .lax _ _ | .dcp _ _ | .isc _ _
  | .anc _ _ | .alr _ _ | .arr _ _ | .xaa _ _ | .lxa _ _ | .axs _ _ | .usbc _ _ | .ahx _ _ | .shy _ _
  | .shx _ _ | .tas _ _ | .las _ _ | .nopUnofficial _ _ => []

/-- The opcode bytes R87 gives an unofficial mnemonic. -/
def Instr.unofficialOpcodes : Instr → List Byte
  | .kil _ _ => [0x02, 0x12, 0x22, 0x32, 0x42, 0x52, 0x62, 0x72, 0x92, 0xB2, 0xD2, 0xF2]
  | .slo _ _ => [0x03, 0x07, 0x0F, 0x13, 0x17, 0x1B, 0x1F]
  | .rla _ _ => [0x23, 0x27, 0x2F, 0x33, 0x37, 0x3B, 0x3F]
  | .sre _ _ => [0x43, 0x47, 0x4F, 0x53, 0x57, 0x5B, 0x5F]
  | .rra _ _ => [0x63, 0x67, 0x6F, 0x73, 0x77, 0x7B, 0x7F]
  | .sax _ _ => [0x83, 0x87, 0x8F, 0x97]
  | .lax _ _ => [0xA3, 0xA7, 0xAF, 0xB3, 0xB7, 0xBF]
  | .dcp _ _ => [0xC3, 0xC7, 0xCF, 0xD3, 0xD7, 0xDB, 0xDF]
  | .isc _ _ => [0xE3, 0xE7, 0xEF, 0xF3, 0xF7, 0xFB, 0xFF]
  | .anc _ _ => [0x0B, 0x2B]
  | .alr _ _ => [0x4B]
  | .arr _ _ => [0x6B]
  | .xaa _ _ => [0x8B]
  | .lxa _ _ => [0xAB]
  | .axs _ _ => [0xCB]
  | .usbc _ _ => [0xEB]
  | .ahx _ _ => [0x93, 0x9F]
  | .shy _ _ => [0x9C]
  | .shx _ _ => [0x9E]
  | .tas _ _ => [0x9B]
  | .las _ _ => [0xBB]
  | .nopUnofficial _ _ => [0x04, 0x0C, 0x14, 0x1A, 0x1C, 0x34, 0x3A, 0x3C, 0x44, 0x54, 0x5A, 0x5C, 0x64, 0x74, 0x7A, 0x7C,
      0x80, 0x82, 0x89, 0xC2, 0xD4, 0xDA, 0xDC, 0xE2, 0xF4, 0xFA, 0xFC]
  | .lda _ | .ldx _ | .ldy _ | .sta _ | .stx _ | .sty _ | .tax | .tay | .txa | .tya | .tsx | .txs
  | .adc _ | .sbc _ | .and _ | .ora _ | .eor _ | .bit _ | .cmp _ | .cpx _ | .cpy _
  | .asl _ | .lsr _ | .rol _ | .ror _ | .inc _ | .dec _ | .inx | .iny | .dex | .dey
  | .bpl _ | .bmi _ | .bvc _ | .bvs _ | .bcc _ | .bcs _ | .bne _ | .beq _ | .jmp _ | .jsr _ | .rts | .rti | .brk
  | .pha | .php | .pla | .plp | .clc | .sec | .cli | .sei | .cld | .sed | .clv | .nop => []

/-- The table has a row for the instruction, under the shapes `shape` gives the unofficial opcodes. -/
def WellFormed (shape : Byte → Shape) (i : Instr) : Bool :=
  match i.unofficial? with
  | some (op, o) => i.unofficialOpcodes.contains op && o.mode == (shape op).mode
  | none => i.officialModes.contains i.mode

end Sys2Proof
end

