-- ==== Sys2Proof/Decode.lean ====
section
/-! DEFINITION. Decoding and encoding (spec/30_encoding.md R80-R87): the opcode map of R85 read row by row, the NMOS shapes of
the unofficial opcodes (R87), the decoder on a list of bytes, and the encoder written from the per-mnemonic table R86. -/

namespace Sys2Proof

/-- `hi:lo`, the concatenation of two bytes (spec/00_scope.md R8). -/
def word (hi lo : Byte) : Addr := hi ++ lo

/-- The high byte `v[15:8]` of a 16-bit value (R8). -/
def hiByte (v : Addr) : Byte := v.extractLsb' 8 8

/-- The low byte `v[7:0]` of a 16-bit value (R8). -/
def loByte (v : Addr) : Byte := v.extractLsb' 0 8

/-- How many operand bytes follow the opcode (R81). -/
def operandBytes : Mode → Nat
  | .imp | .acc => 0
  | .imm | .zp | .zpx | .zpy | .izx | .izy | .rel => 1
  | .abs | .abx | .aby | .ind => 2

/-- The operand of a mode, from the operand bytes (R82). A byte the mode does not have is ignored. -/
def operandOf (m : Mode) (b1 b2 : Byte) : Operand :=
  match m with
  | .imp => .imp
  | .acc => .acc
  | .imm => .imm b1
  | .zp => .mem (.zp b1)
  | .zpx => .mem (.zpx b1)
  | .zpy => .mem (.zpy b1)
  | .abs => .mem (.abs (word b2 b1))
  | .abx => .mem (.abx (word b2 b1))
  | .aby => .mem (.aby (word b2 b1))
  | .ind => .ind (word b2 b1)
  | .izx => .mem (.izx b1)
  | .izy => .mem (.izy b1)
  | .rel => .rel b1

/-- The unofficial entries of row 0x: mode, base cycles and page-penalty flag (R85, R87). -/
def nmosShapes0 : List (Byte × Shape) :=
  [(0x02, ⟨.imp, 2, false⟩), (0x03, ⟨.izx, 8, false⟩), (0x04, ⟨.zp, 3, false⟩), (0x07, ⟨.zp, 5, false⟩),
   (0x0B, ⟨.imm, 2, false⟩), (0x0C, ⟨.abs, 4, false⟩), (0x0F, ⟨.abs, 6, false⟩)]

/-- The unofficial entries of row 1x: mode, base cycles and page-penalty flag (R85, R87). -/
def nmosShapes1 : List (Byte × Shape) :=
  [(0x12, ⟨.imp, 2, false⟩), (0x13, ⟨.izy, 8, false⟩), (0x14, ⟨.zpx, 4, false⟩), (0x17, ⟨.zpx, 6, false⟩),
   (0x1A, ⟨.imp, 2, false⟩), (0x1B, ⟨.aby, 7, false⟩), (0x1C, ⟨.abx, 4, true⟩), (0x1F, ⟨.abx, 7, false⟩)]

/-- The unofficial entries of row 2x: mode, base cycles and page-penalty flag (R85, R87). -/
def nmosShapes2 : List (Byte × Shape) :=
  [(0x22, ⟨.imp, 2, false⟩), (0x23, ⟨.izx, 8, false⟩), (0x27, ⟨.zp, 5, false⟩), (0x2B, ⟨.imm, 2, false⟩),
   (0x2F, ⟨.abs, 6, false⟩)]

/-- The unofficial entries of row 3x: mode, base cycles and page-penalty flag (R85, R87). -/
def nmosShapes3 : List (Byte × Shape) :=
  [(0x32, ⟨.imp, 2, false⟩), (0x33, ⟨.izy, 8, false⟩), (0x34, ⟨.zpx, 4, false⟩), (0x37, ⟨.zpx, 6, false⟩),
   (0x3A, ⟨.imp, 2, false⟩), (0x3B, ⟨.aby, 7, false⟩), (0x3C, ⟨.abx, 4, true⟩), (0x3F, ⟨.abx, 7, false⟩)]

/-- The unofficial entries of row 4x: mode, base cycles and page-penalty flag (R85, R87). -/
def nmosShapes4 : List (Byte × Shape) :=
  [(0x42, ⟨.imp, 2, false⟩), (0x43, ⟨.izx, 8, false⟩), (0x44, ⟨.zp, 3, false⟩), (0x47, ⟨.zp, 5, false⟩),
   (0x4B, ⟨.imm, 2, false⟩), (0x4F, ⟨.abs, 6, false⟩)]

/-- The unofficial entries of row 5x: mode, base cycles and page-penalty flag (R85, R87). -/
def nmosShapes5 : List (Byte × Shape) :=
  [(0x52, ⟨.imp, 2, false⟩), (0x53, ⟨.izy, 8, false⟩), (0x54, ⟨.zpx, 4, false⟩), (0x57, ⟨.zpx, 6, false⟩),
   (0x5A, ⟨.imp, 2, false⟩), (0x5B, ⟨.aby, 7, false⟩), (0x5C, ⟨.abx, 4, true⟩), (0x5F, ⟨.abx, 7, false⟩)]

/-- The unofficial entries of row 6x: mode, base cycles and page-penalty flag (R85, R87). -/
def nmosShapes6 : List (Byte × Shape) :=
  [(0x62, ⟨.imp, 2, false⟩), (0x63, ⟨.izx, 8, false⟩), (0x64, ⟨.zp, 3, false⟩), (0x67, ⟨.zp, 5, false⟩),
   (0x6B, ⟨.imm, 2, false⟩), (0x6F, ⟨.abs, 6, false⟩)]

/-- The unofficial entries of row 7x: mode, base cycles and page-penalty flag (R85, R87). -/
def nmosShapes7 : List (Byte × Shape) :=
  [(0x72, ⟨.imp, 2, false⟩), (0x73, ⟨.izy, 8, false⟩), (0x74, ⟨.zpx, 4, false⟩), (0x77, ⟨.zpx, 6, false⟩),
   (0x7A, ⟨.imp, 2, false⟩), (0x7B, ⟨.aby, 7, false⟩), (0x7C, ⟨.abx, 4, true⟩), (0x7F, ⟨.abx, 7, false⟩)]

/-- The unofficial entries of row 8x: mode, base cycles and page-penalty flag (R85, R87). -/
def nmosShapes8 : List (Byte × Shape) :=
  [(0x80, ⟨.imm, 2, false⟩), (0x82, ⟨.imm, 2, false⟩), (0x83, ⟨.izx, 6, false⟩), (0x87, ⟨.zp, 3, false⟩),
   (0x89, ⟨.imm, 2, false⟩), (0x8B, ⟨.imm, 2, false⟩), (0x8F, ⟨.abs, 4, false⟩)]

/-- The unofficial entries of row 9x: mode, base cycles and page-penalty flag (R85, R87). -/
def nmosShapes9 : List (Byte × Shape) :=
  [(0x92, ⟨.imp, 2, false⟩), (0x93, ⟨.izy, 6, false⟩), (0x97, ⟨.zpy, 4, false⟩), (0x9B, ⟨.aby, 5, false⟩),
   (0x9C, ⟨.abx, 5, false⟩), (0x9E, ⟨.aby, 5, false⟩), (0x9F, ⟨.aby, 5, false⟩)]

/-- The unofficial entries of row Ax: mode, base cycles and page-penalty flag (R85, R87). -/
def nmosShapesA : List (Byte × Shape) :=
  [(0xA3, ⟨.izx, 6, false⟩), (0xA7, ⟨.zp, 3, false⟩), (0xAB, ⟨.imm, 2, false⟩), (0xAF, ⟨.abs, 4, false⟩)]

/-- The unofficial entries of row Bx: mode, base cycles and page-penalty flag (R85, R87). -/
def nmosShapesB : List (Byte × Shape) :=
  [(0xB2, ⟨.imp, 2, false⟩), (0xB3, ⟨.izy, 5, true⟩), (0xB7, ⟨.zpy, 4, false⟩), (0xBB, ⟨.aby, 4, true⟩),
   (0xBF, ⟨.aby, 4, true⟩)]

/-- The unofficial entries of row Cx: mode, base cycles and page-penalty flag (R85, R87). -/
def nmosShapesC : List (Byte × Shape) :=
  [(0xC2, ⟨.imm, 2, false⟩), (0xC3, ⟨.izx, 8, false⟩), (0xC7, ⟨.zp, 5, false⟩), (0xCB, ⟨.imm, 2, false⟩),
   (0xCF, ⟨.abs, 6, false⟩)]

/-- The unofficial entries of row Dx: mode, base cycles and page-penalty flag (R85, R87). -/
def nmosShapesD : List (Byte × Shape) :=
  [(0xD2, ⟨.imp, 2, false⟩), (0xD3, ⟨.izy, 8, false⟩), (0xD4, ⟨.zpx, 4, false⟩), (0xD7, ⟨.zpx, 6, false⟩),
   (0xDA, ⟨.imp, 2, false⟩), (0xDB, ⟨.aby, 7, false⟩), (0xDC, ⟨.abx, 4, true⟩), (0xDF, ⟨.abx, 7, false⟩)]

/-- The unofficial entries of row Ex: mode, base cycles and page-penalty flag (R85, R87). -/
def nmosShapesE : List (Byte × Shape) :=
  [(0xE2, ⟨.imm, 2, false⟩), (0xE3, ⟨.izx, 8, false⟩), (0xE7, ⟨.zp, 5, false⟩), (0xEB, ⟨.imm, 2, false⟩),
   (0xEF, ⟨.abs, 6, false⟩)]

/-- The unofficial entries of row Fx: mode, base cycles and page-penalty flag (R85, R87). -/
def nmosShapesF : List (Byte × Shape) :=
  [(0xF2, ⟨.imp, 2, false⟩), (0xF3, ⟨.izy, 8, false⟩), (0xF4, ⟨.zpx, 4, false⟩), (0xF7, ⟨.zpx, 6, false⟩),
   (0xFA, ⟨.imp, 2, false⟩), (0xFB, ⟨.aby, 7, false⟩), (0xFC, ⟨.abx, 4, true⟩), (0xFF, ⟨.abx, 7, false⟩)]

/-- The default of `UNOFF_SHAPE` (R273): the NMOS shape of each of the 105 unofficial opcodes. -/
def nmosShapes : List (Byte × Shape) :=
  nmosShapes0 ++ nmosShapes1 ++ nmosShapes2 ++ nmosShapes3 ++ nmosShapes4 ++ nmosShapes5 ++ nmosShapes6 ++ nmosShapes7 ++ nmosShapes8 ++ nmosShapes9 ++ nmosShapesA ++ nmosShapesB ++ nmosShapesC ++ nmosShapesD ++ nmosShapesE ++ nmosShapesF

/-- The first entry a list of pairs has for a key. -/
def lookupShape : List (Byte × Shape) → Byte → Option Shape
  | [], _ => none
  | (k, v) :: rest, op => if k = op then some v else lookupShape rest op

/-- `UNOFF_SHAPE` as a function (R273): the session's own shapes first, then the NMOS ones. An official opcode has no shape
and the value here is never used for one. -/
def shapeOf (unoff : List (Byte × Shape)) (op : Byte) : Shape :=
  match lookupShape unoff op with
  | some v => v
  | none =>
    match lookupShape nmosShapes op with
    | some v => v
    | none => ⟨.imp, 2, false⟩

/-- Row 0x of the opcode map (R85): the low nibble selects the cell. -/
def opcodeRow0 (U : Byte → Operand) (b1 b2 : Byte) (lo : Nat) : Instr :=
  match lo with
  | 0 => .brk
  | 1 => .ora (.mem (.izx b1))
  | 2 => .kil 0x02 (U 0x02)
  | 3 => .slo 0x03 (U 0x03)
  | 4 => .nopUnofficial 0x04 (U 0x04)
  | 5 => .ora (.mem (.zp b1))
  | 6 => .asl (.mem (.zp b1))
  | 7 => .slo 0x07 (U 0x07)
  | 8 => .php
  | 9 => .ora (.imm b1)
  | 10 => .asl .acc
  | 11 => .anc 0x0B (U 0x0B)
  | 12 => .nopUnofficial 0x0C (U 0x0C)
  | 13 => .ora (.mem (.abs (word b2 b1)))
  | 14 => .asl (.mem (.abs (word b2 b1)))
  | _ => .slo 0x0F (U 0x0F)

/-- Row 1x of the opcode map (R85): the low nibble selects the cell. -/
def opcodeRow1 (U : Byte → Operand) (b1 b2 : Byte) (lo : Nat) : Instr :=
  match lo with
  | 0 => .bpl b1
  | 1 => .ora (.mem (.izy b1))
  | 2 => .kil 0x12 (U 0x12)
  | 3 => .slo 0x13 (U 0x13)
  | 4 => .nopUnofficial 0x14 (U 0x14)
  | 5 => .ora (.mem (.zpx b1))
  | 6 => .asl (.mem (.zpx b1))
  | 7 => .slo 0x17 (U 0x17)
  | 8 => .clc
  | 9 => .ora (.mem (.aby (word b2 b1)))
  | 10 => .nopUnofficial 0x1A (U 0x1A)
  | 11 => .slo 0x1B (U 0x1B)
  | 12 => .nopUnofficial 0x1C (U 0x1C)
  | 13 => .ora (.mem (.abx (word b2 b1)))
  | 14 => .asl (.mem (.abx (word b2 b1)))
  | _ => .slo 0x1F (U 0x1F)

/-- Row 2x of the opcode map (R85): the low nibble selects the cell. -/
def opcodeRow2 (U : Byte → Operand) (b1 b2 : Byte) (lo : Nat) : Instr :=
  match lo with
  | 0 => .jsr (word b2 b1)
  | 1 => .and (.mem (.izx b1))
  | 2 => .kil 0x22 (U 0x22)
  | 3 => .rla 0x23 (U 0x23)
  | 4 => .bit (.zp b1)
  | 5 => .and (.mem (.zp b1))
  | 6 => .rol (.mem (.zp b1))
  | 7 => .rla 0x27 (U 0x27)
  | 8 => .plp
  | 9 => .and (.imm b1)
  | 10 => .rol .acc
  | 11 => .anc 0x2B (U 0x2B)
  | 12 => .bit (.abs (word b2 b1))
  | 13 => .and (.mem (.abs (word b2 b1)))
  | 14 => .rol (.mem (.abs (word b2 b1)))
  | _ => .rla 0x2F (U 0x2F)

/-- Row 3x of the opcode map (R85): the low nibble selects the cell. -/
def opcodeRow3 (U : Byte → Operand) (b1 b2 : Byte) (lo : Nat) : Instr :=
  match lo with
  | 0 => .bmi b1
  | 1 => .and (.mem (.izy b1))
  | 2 => .kil 0x32 (U 0x32)
  | 3 => .rla 0x33 (U 0x33)
  | 4 => .nopUnofficial 0x34 (U 0x34)
  | 5 => .and (.mem (.zpx b1))
  | 6 => .rol (.mem (.zpx b1))
  | 7 => .rla 0x37 (U 0x37)
  | 8 => .sec
  | 9 => .and (.mem (.aby (word b2 b1)))
  | 10 => .nopUnofficial 0x3A (U 0x3A)
  | 11 => .rla 0x3B (U 0x3B)
  | 12 => .nopUnofficial 0x3C (U 0x3C)
  | 13 => .and (.mem (.abx (word b2 b1)))
  | 14 => .rol (.mem (.abx (word b2 b1)))
  | _ => .rla 0x3F (U 0x3F)

/-- Row 4x of the opcode map (R85): the low nibble selects the cell. -/
def opcodeRow4 (U : Byte → Operand) (b1 b2 : Byte) (lo : Nat) : Instr :=
  match lo with
  | 0 => .rti
  | 1 => .eor (.mem (.izx b1))
  | 2 => .kil 0x42 (U 0x42)
  | 3 => .sre 0x43 (U 0x43)
  | 4 => .nopUnofficial 0x44 (U 0x44)
  | 5 => .eor (.mem (.zp b1))
  | 6 => .lsr (.mem (.zp b1))
  | 7 => .sre 0x47 (U 0x47)
  | 8 => .pha
  | 9 => .eor (.imm b1)
  | 10 => .lsr .acc
  | 11 => .alr 0x4B (U 0x4B)
  | 12 => .jmp (.abs (word b2 b1))
  | 13 => .eor (.mem (.abs (word b2 b1)))
  | 14 => .lsr (.mem (.abs (word b2 b1)))
  | _ => .sre 0x4F (U 0x4F)

/-- Row 5x of the opcode map (R85): the low nibble selects the cell. -/
def opcodeRow5 (U : Byte → Operand) (b1 b2 : Byte) (lo : Nat) : Instr :=
  match lo with
  | 0 => .bvc b1
  | 1 => .eor (.mem (.izy b1))
  | 2 => .kil 0x52 (U 0x52)
  | 3 => .sre 0x53 (U 0x53)
  | 4 => .nopUnofficial 0x54 (U 0x54)
  | 5 => .eor (.mem (.zpx b1))
  | 6 => .lsr (.mem (.zpx b1))
  | 7 => .sre 0x57 (U 0x57)
  | 8 => .cli
  | 9 => .eor (.mem (.aby (word b2 b1)))
  | 10 => .nopUnofficial 0x5A (U 0x5A)
  | 11 => .sre 0x5B (U 0x5B)
  | 12 => .nopUnofficial 0x5C (U 0x5C)
  | 13 => .eor (.mem (.abx (word b2 b1)))
  | 14 => .lsr (.mem (.abx (word b2 b1)))
  | _ => .sre 0x5F (U 0x5F)

/-- Row 6x of the opcode map (R85): the low nibble selects the cell. -/
def opcodeRow6 (U : Byte → Operand) (b1 b2 : Byte) (lo : Nat) : Instr :=
  match lo with
  | 0 => .rts
  | 1 => .adc (.mem (.izx b1))
  | 2 => .kil 0x62 (U 0x62)
  | 3 => .rra 0x63 (U 0x63)
  | 4 => .nopUnofficial 0x64 (U 0x64)
  | 5 => .adc (.mem (.zp b1))
  | 6 => .ror (.mem (.zp b1))
  | 7 => .rra 0x67 (U 0x67)
  | 8 => .pla
  | 9 => .adc (.imm b1)
  | 10 => .ror .acc
  | 11 => .arr 0x6B (U 0x6B)
  | 12 => .jmp (.ind (word b2 b1))
  | 13 => .adc (.mem (.abs (word b2 b1)))
  | 14 => .ror (.mem (.abs (word b2 b1)))
  | _ => .rra 0x6F (U 0x6F)

/-- Row 7x of the opcode map (R85): the low nibble selects the cell. -/
def opcodeRow7 (U : Byte → Operand) (b1 b2 : Byte) (lo : Nat) : Instr :=
  match lo with
  | 0 => .bvs b1
  | 1 => .adc (.mem (.izy b1))
  | 2 => .kil 0x72 (U 0x72)
  | 3 => .rra 0x73 (U 0x73)
  | 4 => .nopUnofficial 0x74 (U 0x74)
  | 5 => .adc (.mem (.zpx b1))
  | 6 => .ror (.mem (.zpx b1))
  | 7 => .rra 0x77 (U 0x77)
  | 8 => .sei
  | 9 => .adc (.mem (.aby (word b2 b1)))
  | 10 => .nopUnofficial 0x7A (U 0x7A)
  | 11 => .rra 0x7B (U 0x7B)
  | 12 => .nopUnofficial 0x7C (U 0x7C)
  | 13 => .adc (.mem (.abx (word b2 b1)))
  | 14 => .ror (.mem (.abx (word b2 b1)))
  | _ => .rra 0x7F (U 0x7F)

/-- Row 8x of the opcode map (R85): the low nibble selects the cell. -/
def opcodeRow8 (U : Byte → Operand) (b1 b2 : Byte) (lo : Nat) : Instr :=
  match lo with
  | 0 => .nopUnofficial 0x80 (U 0x80)
  | 1 => .sta (.izx b1)
  | 2 => .nopUnofficial 0x82 (U 0x82)
  | 3 => .sax 0x83 (U 0x83)
  | 4 => .sty (.zp b1)
  | 5 => .sta (.zp b1)
  | 6 => .stx (.zp b1)
  | 7 => .sax 0x87 (U 0x87)
  | 8 => .dey
  | 9 => .nopUnofficial 0x89 (U 0x89)
  | 10 => .txa
  | 11 => .xaa 0x8B (U 0x8B)
  | 12 => .sty (.abs (word b2 b1))
  | 13 => .sta (.abs (word b2 b1))
  | 14 => .stx (.abs (word b2 b1))
  | _ => .sax 0x8F (U 0x8F)

/-- Row 9x of the opcode map (R85): the low nibble selects the cell. -/
def opcodeRow9 (U : Byte → Operand) (b1 b2 : Byte) (lo : Nat) : Instr :=
  match lo with
  | 0 => .bcc b1
  | 1 => .sta (.izy b1)
  | 2 => .kil 0x92 (U 0x92)
  | 3 => .ahx 0x93 (U 0x93)
  | 4 => .sty (.zpx b1)
  | 5 => .sta (.zpx b1)
  | 6 => .stx (.zpy b1)
  | 7 => .sax 0x97 (U 0x97)
  | 8 => .tya
  | 9 => .sta (.aby (word b2 b1))
  | 10 => .txs
  | 11 => .tas 0x9B (U 0x9B)
  | 12 => .shy 0x9C (U 0x9C)
  | 13 => .sta (.abx (word b2 b1))
  | 14 => .shx 0x9E (U 0x9E)
  | _ => .ahx 0x9F (U 0x9F)

/-- Row Ax of the opcode map (R85): the low nibble selects the cell. -/
def opcodeRowA (U : Byte → Operand) (b1 b2 : Byte) (lo : Nat) : Instr :=
  match lo with
  | 0 => .ldy (.imm b1)
  | 1 => .lda (.mem (.izx b1))
  | 2 => .ldx (.imm b1)
  | 3 => .lax 0xA3 (U 0xA3)
  | 4 => .ldy (.mem (.zp b1))
  | 5 => .lda (.mem (.zp b1))
  | 6 => .ldx (.mem (.zp b1))
  | 7 => .lax 0xA7 (U 0xA7)
  | 8 => .tay
  | 9 => .lda (.imm b1)
  | 10 => .tax
  | 11 => .lxa 0xAB (U 0xAB)
  | 12 => .ldy (.mem (.abs (word b2 b1)))
  | 13 => .lda (.mem (.abs (word b2 b1)))
  | 14 => .ldx (.mem (.abs (word b2 b1)))
  | _ => .lax 0xAF (U 0xAF)

/-- Row Bx of the opcode map (R85): the low nibble selects the cell. -/
def opcodeRowB (U : Byte → Operand) (b1 b2 : Byte) (lo : Nat) : Instr :=
  match lo with
  | 0 => .bcs b1
  | 1 => .lda (.mem (.izy b1))
  | 2 => .kil 0xB2 (U 0xB2)
  | 3 => .lax 0xB3 (U 0xB3)
  | 4 => .ldy (.mem (.zpx b1))
  | 5 => .lda (.mem (.zpx b1))
  | 6 => .ldx (.mem (.zpy b1))
  | 7 => .lax 0xB7 (U 0xB7)
  | 8 => .clv
  | 9 => .lda (.mem (.aby (word b2 b1)))
  | 10 => .tsx
  | 11 => .las 0xBB (U 0xBB)
  | 12 => .ldy (.mem (.abx (word b2 b1)))
  | 13 => .lda (.mem (.abx (word b2 b1)))
  | 14 => .ldx (.mem (.aby (word b2 b1)))
  | _ => .lax 0xBF (U 0xBF)

/-- Row Cx of the opcode map (R85): the low nibble selects the cell. -/
def opcodeRowC (U : Byte → Operand) (b1 b2 : Byte) (lo : Nat) : Instr :=
  match lo with
  | 0 => .cpy (.imm b1)
  | 1 => .cmp (.mem (.izx b1))
  | 2 => .nopUnofficial 0xC2 (U 0xC2)
  | 3 => .dcp 0xC3 (U 0xC3)
  | 4 => .cpy (.mem (.zp b1))
  | 5 => .cmp (.mem (.zp b1))
  | 6 => .dec (.zp b1)
  | 7 => .dcp 0xC7 (U 0xC7)
  | 8 => .iny
  | 9 => .cmp (.imm b1)
  | 10 => .dex
  | 11 => .axs 0xCB (U 0xCB)
  | 12 => .cpy (.mem (.abs (word b2 b1)))
  | 13 => .cmp (.mem (.abs (word b2 b1)))
  | 14 => .dec (.abs (word b2 b1))
  | _ => .dcp 0xCF (U 0xCF)

/-- Row Dx of the opcode map (R85): the low nibble selects the cell. -/
def opcodeRowD (U : Byte → Operand) (b1 b2 : Byte) (lo : Nat) : Instr :=
  match lo with
  | 0 => .bne b1
  | 1 => .cmp (.mem (.izy b1))
  | 2 => .kil 0xD2 (U 0xD2)
  | 3 => .dcp 0xD3 (U 0xD3)
  | 4 => .nopUnofficial 0xD4 (U 0xD4)
  | 5 => .cmp (.mem (.zpx b1))
  | 6 => .dec (.zpx b1)
  | 7 => .dcp 0xD7 (U 0xD7)
  | 8 => .cld
  | 9 => .cmp (.mem (.aby (word b2 b1)))
  | 10 => .nopUnofficial 0xDA (U 0xDA)
  | 11 => .dcp 0xDB (U 0xDB)
  | 12 => .nopUnofficial 0xDC (U 0xDC)
  | 13 => .cmp (.mem (.abx (word b2 b1)))
  | 14 => .dec (.abx (word b2 b1))
  | _ => .dcp 0xDF (U 0xDF)

/-- Row Ex of the opcode map (R85): the low nibble selects the cell. -/
def opcodeRowE (U : Byte → Operand) (b1 b2 : Byte) (lo : Nat) : Instr :=
  match lo with
  | 0 => .cpx (.imm b1)
  | 1 => .sbc (.mem (.izx b1))
  | 2 => .nopUnofficial 0xE2 (U 0xE2)
  | 3 => .isc 0xE3 (U 0xE3)
  | 4 => .cpx (.mem (.zp b1))
  | 5 => .sbc (.mem (.zp b1))
  | 6 => .inc (.zp b1)
  | 7 => .isc 0xE7 (U 0xE7)
  | 8 => .inx
  | 9 => .sbc (.imm b1)
  | 10 => .nop
  | 11 => .usbc 0xEB (U 0xEB)
  | 12 => .cpx (.mem (.abs (word b2 b1)))
  | 13 => .sbc (.mem (.abs (word b2 b1)))
  | 14 => .inc (.abs (word b2 b1))
  | _ => .isc 0xEF (U 0xEF)

/-- Row Fx of the opcode map (R85): the low nibble selects the cell. -/
def opcodeRowF (U : Byte → Operand) (b1 b2 : Byte) (lo : Nat) : Instr :=
  match lo with
  | 0 => .beq b1
  | 1 => .sbc (.mem (.izy b1))
  | 2 => .kil 0xF2 (U 0xF2)
  | 3 => .isc 0xF3 (U 0xF3)
  | 4 => .nopUnofficial 0xF4 (U 0xF4)
  | 5 => .sbc (.mem (.zpx b1))
  | 6 => .inc (.zpx b1)
  | 7 => .isc 0xF7 (U 0xF7)
  | 8 => .sed
  | 9 => .sbc (.mem (.aby (word b2 b1)))
  | 10 => .nopUnofficial 0xFA (U 0xFA)
  | 11 => .isc 0xFB (U 0xFB)
  | 12 => .nopUnofficial 0xFC (U 0xFC)
  | 13 => .sbc (.mem (.abx (word b2 b1)))
  | 14 => .inc (.abx (word b2 b1))
  | _ => .isc 0xFF (U 0xFF)

/-- The opcode map (R85): the instruction an opcode byte selects, with the operand bytes its mode has taken from `b1` and `b2`.
Total on all 256 bytes (R84). `U` gives the operand of an unofficial opcode. -/
def opcodeMap (U : Byte → Operand) (op b1 b2 : Byte) : Instr :=
  match op.toNat / 16 with
  | 0 => opcodeRow0 U b1 b2 (op.toNat % 16)
  | 1 => opcodeRow1 U b1 b2 (op.toNat % 16)
  | 2 => opcodeRow2 U b1 b2 (op.toNat % 16)
  | 3 => opcodeRow3 U b1 b2 (op.toNat % 16)
  | 4 => opcodeRow4 U b1 b2 (op.toNat % 16)
  | 5 => opcodeRow5 U b1 b2 (op.toNat % 16)
  | 6 => opcodeRow6 U b1 b2 (op.toNat % 16)
  | 7 => opcodeRow7 U b1 b2 (op.toNat % 16)
  | 8 => opcodeRow8 U b1 b2 (op.toNat % 16)
  | 9 => opcodeRow9 U b1 b2 (op.toNat % 16)
  | 10 => opcodeRowA U b1 b2 (op.toNat % 16)
  | 11 => opcodeRowB U b1 b2 (op.toNat % 16)
  | 12 => opcodeRowC U b1 b2 (op.toNat % 16)
  | 13 => opcodeRowD U b1 b2 (op.toNat % 16)
  | 14 => opcodeRowE U b1 b2 (op.toNat % 16)
  | _ => opcodeRowF U b1 b2 (op.toNat % 16)

/-- The instruction of an opcode byte and its operand bytes, under a session's `UNOFF_SHAPE`. -/
def instrOf (unoff : List (Byte × Shape)) (op b1 b2 : Byte) : Instr :=
  opcodeMap (fun o => operandOf (shapeOf unoff o).mode b1 b2) op b1 b2

/-- The number of operand bytes of an opcode, found "from the first byte alone" (R81). -/
def operandCount (unoff : List (Byte × Shape)) (op : Byte) : Nat :=
  operandBytes (instrOf unoff op 0 0).mode

/-- Why a list of bytes is no instruction. No opcode byte is illegal (R84), so only the length can be wrong. -/
inductive DecodeError
  | noOpcode
  | operandMissing (opcode : Byte)
deriving DecidableEq, Repr

/-- The decoder: the instruction at the head of a list of bytes, and the rest of the list (R80, R81). -/
def decode (unoff : List (Byte × Shape)) : List Byte → Except DecodeError (Instr × List Byte)
  | [] => .error .noOpcode
  | op :: rest =>
    match operandCount unoff op, rest with
    | 0, _ => .ok (instrOf unoff op 0 0, rest)
    | 1, b1 :: rest1 => .ok (instrOf unoff op b1 0, rest1)
    | 2, b1 :: b2 :: rest2 => .ok (instrOf unoff op b1 b2, rest2)
    | _, _ => .error (.operandMissing op)

/-- The opcode bytes of an official mnemonic, by mode: the table R86, row by row. -/
def officialEncodings : Instr → List (Mode × Byte)
  | .lda _ => [(.izx, 0xA1), (.zp, 0xA5), (.imm, 0xA9), (.abs, 0xAD), (.izy, 0xB1), (.zpx, 0xB5), (.aby, 0xB9), (.abx, 0xBD)]
  | .ldx _ => [(.imm, 0xA2), (.zp, 0xA6), (.abs, 0xAE), (.zpy, 0xB6), (.aby, 0xBE)]
  | .ldy _ => [(.imm, 0xA0), (.zp, 0xA4), (.abs, 0xAC), (.zpx, 0xB4), (.abx, 0xBC)]
  | .sta _ => [(.izx, 0x81), (.zp, 0x85), (.abs, 0x8D), (.izy, 0x91), (.zpx, 0x95), (.aby, 0x99), (.abx, 0x9D)]
  | .stx _ => [(.zp, 0x86), (.abs, 0x8E), (.zpy, 0x96)]
  | .sty _ => [(.zp, 0x84), (.abs, 0x8C), (.zpx, 0x94)]
  | .tax => [(.imp, 0xAA)]
  | .tay => [(.imp, 0xA8)]
  | .txa => [(.imp, 0x8A)]
  | .tya => [(.imp, 0x98)]
  | .tsx => [(.imp, 0xBA)]
  | .txs => [(.imp, 0x9A)]
  | .adc _ => [(.izx, 0x61), (.zp, 0x65), (.imm, 0x69), (.abs, 0x6D), (.izy, 0x71), (.zpx, 0x75), (.aby, 0x79), (.abx, 0x7D)]
  | .sbc _ => [(.izx, 0xE1), (.zp, 0xE5), (.imm, 0xE9), (.abs, 0xED), (.izy, 0xF1), (.zpx, 0xF5), (.aby, 0xF9), (.abx, 0xFD)]
  | .and _ => [(.izx, 0x21), (.zp, 0x25), (.imm, 0x29), (.abs, 0x2D), (.izy, 0x31), (.zpx, 0x35), (.aby, 0x39), (.abx, 0x3D)]
  | .ora _ => [(.izx, 0x01), (.zp, 0x05), (.imm, 0x09), (.abs, 0x0D), (.izy, 0x11), (.zpx, 0x15), (.aby, 0x19), (.abx, 0x1D)]
  | .eor _ => [(.izx, 0x41), (.zp, 0x45), (.imm, 0x49), (.abs, 0x4D), (.izy, 0x51), (.zpx, 0x55), (.aby, 0x59), (.abx, 0x5D)]
  | .bit _ => [(.zp, 0x24), (.abs, 0x2C)]
  | .cmp _ => [(.izx, 0xC1), (.zp, 0xC5), (.imm, 0xC9), (.abs, 0xCD), (.izy, 0xD1), (.zpx, 0xD5), (.aby, 0xD9), (.abx, 0xDD)]
  | .cpx _ => [(.imm, 0xE0), (.zp, 0xE4), (.abs, 0xEC)]
  | .cpy _ => [(.imm, 0xC0), (.zp, 0xC4), (.abs, 0xCC)]
  | .asl _ => [(.zp, 0x06), (.acc, 0x0A), (.abs, 0x0E), (.zpx, 0x16), (.abx, 0x1E)]
  | .lsr _ => [(.zp, 0x46), (.acc, 0x4A), (.abs, 0x4E), (.zpx, 0x56), (.abx, 0x5E)]
  | .rol _ => [(.zp, 0x26), (.acc, 0x2A), (.abs, 0x2E), (.zpx, 0x36), (.abx, 0x3E)]
  | .ror _ => [(.zp, 0x66), (.acc, 0x6A), (.abs, 0x6E), (.zpx, 0x76), (.abx, 0x7E)]
  | .inc _ => [(.zp, 0xE6), (.abs, 0xEE), (.zpx, 0xF6), (.abx, 0xFE)]
  | .dec _ => [(.zp, 0xC6), (.abs, 0xCE), (.zpx, 0xD6), (.abx, 0xDE)]
  | .inx => [(.imp, 0xE8)]
  | .iny => [(.imp, 0xC8)]
  | .dex => [(.imp, 0xCA)]
  | .dey => [(.imp, 0x88)]
  | .bpl _ => [(.rel, 0x10)]
  | .bmi _ => [(.rel, 0x30)]
  | .bvc _ => [(.rel, 0x50)]
  | .bvs _ => [(.rel, 0x70)]
  | .bcc _ => [(.rel, 0x90)]
  | .bcs _ => [(.rel, 0xB0)]
  | .bne _ => [(.rel, 0xD0)]
  | .beq _ => [(.rel, 0xF0)]
  | .jmp _ => [(.abs, 0x4C), (.ind, 0x6C)]
  | .jsr _ => [(.abs, 0x20)]
  | .rts => [(.imp, 0x60)]
  | .rti => [(.imp, 0x40)]
  | .brk => [(.imp, 0x00)]
  | .pha => [(.imp, 0x48)]
  | .php => [(.imp, 0x08)]
  | .pla => [(.imp, 0x68)]
  | .plp => [(.imp, 0x28)]
  | .clc => [(.imp, 0x18)]
  | .sec => [(.imp, 0x38)]
  | .cli => [(.imp, 0x58)]
  | .sei => [(.imp, 0x78)]
  | .cld => [(.imp, 0xD8)]
  | .sed => [(.imp, 0xF8)]
  | .clv => [(.imp, 0xB8)]
  | .nop => [(.imp, 0xEA)]
  | .kil _ _ | .slo _ _ | .rla _ _ | .sre _ _ | .rra _ _ | .sax _ _ | .lax _ _ | .dcp _ _ | .isc _ _
  | .anc _ _ | .alr _ _ | .arr _ _ | .xaa _ _ | .lxa _ _ | .axs _ _ | .usbc _ _ | .ahx _ _ | .shy _ _
  | .shx _ _ | .tas _ _ | .las _ _ | .nopUnofficial _ _ => []

/-- The first entry a list of pairs has for a mode. -/
def lookupOpcode : List (Mode × Byte) → Mode → Option Byte
  | [], _ => none
  | (k, v) :: rest, m => if k = m then some v else lookupOpcode rest m

/-- The opcode byte of an instruction, if the table has a row for it. -/
def opcodeOf (i : Instr) : Option Byte :=
  match i.unofficial? with
  | some (op, _) => some op
  | none => lookupOpcode (officialEncodings i) i.mode

/-- The operand bytes of a memory form, low byte first (R80, R82). -/
def memModeBytes : MemMode → List Byte
  | .zp z | .zpx z | .zpy z | .izx z | .izy z => [z]
  | .abs a | .abx a | .aby a => [loByte a, hiByte a]

/-- The operand bytes of any form (R80, R82). -/
def operandField : Operand → List Byte
  | .imp | .acc => []
  | .imm v => [v]
  | .mem m => memModeBytes m
  | .ind a => [loByte a, hiByte a]
  | .rel off => [off]

/-- The encoder: the bytes of an instruction, the opcode first; no bytes for a form the table has no row for. -/
def encode (i : Instr) : List Byte :=
  match opcodeOf i with
  | some op => op :: operandField i.operand
  | none => []

/-- The bytes of an instruction word as spec/opcode_table.json numbers its bits: bit 0 is the least significant bit of the
opcode byte, and the bits from `nbits` up are 0. Three bytes, the longest instruction. -/
def tableWordBytes (nbits w : Nat) : List Byte :=
  let v := w % 2 ^ nbits
  [BitVec.ofNat 8 v, BitVec.ofNat 8 (v / 256), BitVec.ofNat 8 (v / 65536)]

/-- The instruction the decoder reads from a table word, under the default `UNOFF_SHAPE`. -/
def decodeTableWord (nbits w : Nat) : Option Instr :=
  match decode [] (tableWordBytes nbits w) with
  | .ok (i, _) => some i
  | .error _ => none

end Sys2Proof
end

