-- ==== Sys2Proof/Config.lean ====
section
/-! DEFINITION. What a session fixes: the parameters of spec/00_scope.md R7, as plain data, and the free values the spec
leaves open. -/

namespace Sys2Proof

/-- The devices an address decodes to (spec/20_memory.md R52). -/
inductive Device
  | ram (window : Nat)
  | ppuReg (n : BitVec 3)
  | apu
  | dmaTrigger
  | fallback
deriving DecidableEq, Repr

/-- What a region of the map holds: one device for all its addresses, or the peripheral's register window, whose register
number is the address's low three bits (R60: `PpuReg(a & 7)`). -/
inductive RegionKind
  | device (d : Device)
  | ppuWindow
deriving DecidableEq, Repr

/-- The addresses from `first` to `last`, both included. -/
structure Region where
  first : Addr
  last : Addr
  kind : RegionKind
deriving DecidableEq, Repr

/-- `MAP` (R51): the first region that holds an address decides its device, and an address in no region is `Fallback` (R58).
Every function from addresses to devices is such a list. Log entry 2, DESIGN CHOICE. -/
abbrev MemMap := List Region

/-- `MAP = FLAT` (R59): every address is `Fallback`. -/
def flatMap : MemMap := []

/-- The parameters of R7. `RAM_WINDOW` and `DMA_TRIGGER_ADDR` stand inside `map` (`Machine.nesMap` takes them), and
`RESET_AXY` is an argument of `Machine.State.construct`. `unoffShape` lists the unofficial opcodes whose shape differs from
the NMOS one (R273). -/
structure Params where
  map : MemMap
  periphRatio : Nat
  branchTakenExtra : Nat
  intCycles : Nat
  resetCycles : Nat
  penaltyOnWrites : Bool
  resetClearsLatches : Bool
  unoffShape : List (Byte × Shape)
deriving DecidableEq, Repr

/-- The default of each parameter (R7). -/
def Params.default : Params where
  map := flatMap
  periphRatio := 3
  branchTakenExtra := 1
  intCycles := 7
  resetCycles := 0
  penaltyOnWrites := false
  resetClearsLatches := true
  unoffShape := []

/-- What a byte of the backing store that nothing has written reads as. The spec leaves it a draw (R53, D40).
DESIGN CHOICE, log entry 3, unsafe for a claim about `State.reset`; any other power-on contents are a `State.mem`. -/
def Config.unlistedByte : Byte := 0x00

/-- The value of the `draw`-th read of a peripheral register: a free value, "the model takes this value as a draw from the
peripheral" (R55, D22). Log entry 6. -/
opaque Config.periphRead (draw : Nat) : Byte

end Sys2Proof
end

