-- ==== Sys2Proof/Machine/State.lean ====
section
/-! DEFINITION. The state of the core, all of it (spec/10_state.md R20-R44), the reasons a step can stop, and the state after
construction and reset (R42, spec/70_reset_and_hazards.md R380, R381). -/

namespace Sys2Proof.Machine

/-- The backing store (spec/20_memory.md R53): cells at strictly rising indices below 0x10000, none equal to
`Config.unlistedByte`, which is what an index without a cell reads as. `Memory.wf` is that form. -/
abbrev Memory := List Host.Cell

/-- What the core delivers to the peripheral (spec/50_scheduler_dma.md R300). `step()` is counted in `State.periphCycles`. -/
inductive PeriphCall
  | regRead (n : BitVec 3)
  | regWrite (n : BitVec 3) (v : Byte)
  | oamWrite (v : Byte)
deriving DecidableEq, Repr

/-- A call with the number of peripheral steps issued before it, which fixes its place among the steps. -/
structure PeriphEvent where
  stamp : Nat
  call : PeriphCall
deriving DecidableEq, Repr

/-- The state of the core. -/
structure State where
  /-- The accumulator (R21). -/
  a : Byte
  /-- Index register X (R22). -/
  x : Byte
  /-- Index register Y (R23). -/
  y : Byte
  /-- The stack pointer, an index into page 1 (R24). -/
  sp : Byte
  /-- The status register N V U B D I Z C (R26). -/
  p : Byte
  /-- The program counter (R25). -/
  pc : Addr
  /-- The remaining-cycle counter (R36). -/
  rem : Nat
  /-- The NMI latch (R38). -/
  nmiPending : Bool
  /-- The IRQ latch (R38). -/
  irqPending : Bool
  /-- The trap observable of the last boundary (spec/40_execution_cycle.md R112). -/
  trap : Bool
  /-- The number of ticks completed (R37). -/
  cycles : Nat
  /-- The number of peripheral steps issued (R40). -/
  periphCycles : Nat
  /-- The DMA countdown (R39); the DMA is in progress when it is not 0 (R307). -/
  dmaCount : Nat
  /-- The DMA source page (R39). -/
  dmaPage : Byte
  /-- The DMA source low byte (R39). -/
  dmaLow : Byte
  /-- The byte the last DMA read cycle read (R39). -/
  dmaLatch : Byte
  /-- The backing store (spec/20_memory.md R53). -/
  mem : Memory
  /-- `reset()` was called at least once (R383, D47). -/
  ready : Bool
  /-- The session's parameters, which nothing changes (R7, R41). Log entry 1. -/
  params : Params
  /-- THE MODEL'S OWN: how many free values peripheral reads have taken. Log entry 6. -/
  draws : Nat
  /-- THE MODEL'S OWN: what the peripheral was given, newest first. Log entry 7. -/
  events : List PeriphEvent
deriving DecidableEq, Repr

/-- The core has no fault: "Nothing in the core is a `fault` or `stuck` state" (spec/93_implementation_defined.md; R114, R340). -/
inductive Fault
deriving DecidableEq, Repr

/-- Why a step or a host move is refused. -/
inductive Refusal
  /-- Raised by an arm of `exec` that has no meaning yet; no arm does. Safe. -/
  | notModelled (mnemonic : String)
  /-- Raised by `tick` when `reset()` was never called: "A model refuses it" (R383, D47). Safe. -/
  | tickBeforeReset
  /-- Raised by `load_bytes` when the bytes run past 0xFFFF: "the model refuses it" (R76, D21). Safe. -/
  | loadPastEnd
deriving DecidableEq, Repr

/-- The constructed core (R381), for any parameters, any power-on contents of the backing store and any A, X and Y
(`RESET_AXY` and D40 are draws). SP, P and PC "have no value until the first reset"; the zeros here are read by nothing,
since a tick is refused (log entry 18). -/
def State.construct (params : Params) (mem : Memory) (a x y : Byte) : State where
  a := a
  x := x
  y := y
  sp := 0x00
  p := 0x00
  pc := 0x0000
  rem := 0
  nmiPending := false
  irqPending := false
  trap := false
  cycles := 0
  periphCycles := 0
  dmaCount := 0
  dmaPage := 0x00
  dmaLow := 0x00
  dmaLatch := 0x00
  mem := mem
  ready := false
  params := params
  draws := 0
  events := []

/-- The core after construction with the default parameters and `reset()`, nothing loaded (R42, R380): the deterministic draw
0x00 for A, X, Y and every byte of the store (log entries 3 and 4), so the reset vector reads 0x0000 (log entry 5). -/
def State.reset : State where
  a := 0x00
  x := 0x00
  y := 0x00
  sp := 0xFF
  p := 0x34
  pc := 0x0000
  rem := 0
  nmiPending := false
  irqPending := false
  trap := false
  cycles := 0
  periphCycles := 0
  dmaCount := 0
  dmaPage := 0x00
  dmaLow := 0x00
  dmaLatch := 0x00
  mem := []
  ready := true
  params := Params.default
  draws := 0
  events := []

end Sys2Proof.Machine
end

