-- ==== Sys2Proof/Machine/Flags.lean ====
section
/-! DEFINITION. The status register's bits and every flag computation (spec/10_state.md R26-R34, spec/00_scope.md R10,
spec/43_arithmetic_logic.md R160, R167, R168, spec/44_shift_incdec.md R180-R183). -/

namespace Sys2Proof.Machine

/-- The eight bits of P (R26). -/
inductive Flag
  | c | z | i | d | b | u | v | n
deriving DecidableEq, Repr

/-- The place of each flag (R26, D2). -/
def flagBit : Flag → Nat
  | .c => 0
  | .z => 1
  | .i => 2
  | .d => 3
  | .b => 4
  | .u => 5
  | .v => 6
  | .n => 7

/-- Read one flag of a status byte. -/
def getFlag (f : Flag) (p : Byte) : Bool := p.getLsbD (flagBit f)

/-- Write one flag of a status byte. -/
def setFlag (f : Flag) (on : Bool) (p : Byte) : Byte :=
  if on then p ||| 1#8 <<< flagBit f else p &&& ~~~(1#8 <<< flagBit f)

/-- Bit 7 of a byte, `v[7]`. -/
def bit7 (v : Byte) : Bool := v.getLsbD 7

/-- Bit 6 of a byte, `v[6]`. -/
def bit6 (v : Byte) : Bool := v.getLsbD 6

/-- Bit 0 of a byte, `v[0]`. -/
def bit0 (v : Byte) : Bool := v.getLsbD 0

/-- `setNZ(v)` (R10). -/
def setNZ (v : Byte) (p : Byte) : Byte := setFlag .n (bit7 v) (setFlag .z (v == 0) p)

/-- The result of a computation on bytes: the byte and the status register with the flags the computation writes. -/
structure Computed where
  result : Byte
  status : Byte
deriving DecidableEq, Repr

/-- `AddWithCarry(m)` (R160): the exact sum decides C, the signs decide V. The decimal flag is not read (R161). -/
def addWithCarry (a m p : Byte) : Computed :=
  let sum := a.toNat + m.toNat + (getFlag .c p).toNat
  let r := BitVec.ofNat 8 sum
  let v := ((a ^^^ r) &&& (m ^^^ r) &&& 0x80) != 0
  ⟨r, setNZ r (setFlag .v v (setFlag .c (decide (sum > 0xFF)) p))⟩

/-- `Compare(reg, m)` (R168): only flags are written. -/
def compareStatus (reg m p : Byte) : Byte :=
  setFlag .n (bit7 (reg - m)) (setFlag .z (reg == m) (setFlag .c (decide (m.toNat ≤ reg.toNat)) p))

/-- The flags of BIT (R167): Z from `A & m`, N and V from m. -/
def bitTestStatus (a m p : Byte) : Byte :=
  setFlag .v (bit6 m) (setFlag .n (bit7 m) (setFlag .z (a &&& m == 0) p))

/-- The byte and flags of ASL (R180). -/
def shiftLeft (v p : Byte) : Computed :=
  let r := v <<< 1
  ⟨r, setNZ r (setFlag .c (bit7 v) p)⟩

/-- The byte and flags of LSR (R181). -/
def shiftRight (v p : Byte) : Computed :=
  let r := v >>> 1
  ⟨r, setNZ r (setFlag .c (bit0 v) p)⟩

/-- The byte and flags of ROL (R182): the old carry enters bit 0. -/
def rotateLeft (v p : Byte) : Computed :=
  let r := v <<< 1 ||| (if getFlag .c p then 0x01 else 0x00)
  ⟨r, setNZ r (setFlag .c (bit7 v) p)⟩

/-- The byte and flags of ROR (R183): the old carry enters bit 7. -/
def rotateRight (v p : Byte) : Computed :=
  let r := v >>> 1 ||| (if getFlag .c p then 0x80 else 0x00)
  ⟨r, setNZ r (setFlag .c (bit0 v) p)⟩

/-- The byte and flags of INC, INX and INY (R184, R186, R187). -/
def increment (v p : Byte) : Computed := ⟨v + 1, setNZ (v + 1) p⟩

/-- The byte and flags of DEC, DEX and DEY (R185, R188, R189). -/
def decrement (v p : Byte) : Computed := ⟨v - 1, setNZ (v - 1) p⟩

/-- The status byte a push of P puts on the stack (spec/60_exceptions.md R342): B is 1 for PHP and BRK and 0 for IRQ and NMI,
U is always 1. -/
def pushedStatus (brk : Bool) (p : Byte) : Byte :=
  if brk then p ||| 0x30 else (p &&& 0xEF) ||| 0x20

/-- `P.U <- 1` (R106). -/
def forceUnused (p : Byte) : Byte := setFlag .u true p

end Sys2Proof.Machine
end

