-- ==== Sys2Proof/Machine/Ops.lean ====
section
/-! DEFINITION. The named operations over memory, the address space, the stack and the registers (spec/20_memory.md R50-R77),
the DMA arm (spec/50_scheduler_dma.md R306), the interrupt sequence and the return from it (spec/60_exceptions.md R342-R344,
R351), and the end of an instruction (spec/40_execution_cycle.md R106, R107). -/

namespace Sys2Proof.Machine

/-! ### The backing store (R53) -/

/-- The byte at an index. -/
def Memory.read : Memory → Nat → Byte
  | [], _ => Config.unlistedByte
  | (k, v) :: rest, i => if k = i then v else Memory.read rest i

/-- Put a cell in its place among rising indices, in the place of a cell of the same index. -/
def Memory.insert : Memory → Nat → Byte → Memory
  | [], i, b => [(i, b)]
  | (k, v) :: rest, i, b =>
    if i < k then (i, b) :: (k, v) :: rest
    else if i = k then (i, b) :: rest
    else (k, v) :: Memory.insert rest i b

/-- Take the cells of an index out. -/
def Memory.remove : Memory → Nat → Memory
  | [], _ => []
  | (k, v) :: rest, i => if k = i then Memory.remove rest i else (k, v) :: Memory.remove rest i

/-- Store a byte at an index, keeping the canonical form: the unlisted byte takes the cell out. -/
def Memory.write (m : Memory) (i : Nat) (b : Byte) : Memory :=
  if b = Config.unlistedByte then m.remove i else m.insert i b

/-- The canonical form: indices strictly rising and below 0x10000, no cell equal to the unlisted byte. -/
def Memory.wf : Memory → Bool
  | [] => true
  | (k, v) :: rest =>
    v != Config.unlistedByte && decide (k < 0x10000) && rest.all (fun c => decide (k < c.1)) && Memory.wf rest

/-- Store a run of bytes at rising indices (`load_bytes`, R76). -/
def Memory.writeAll : Memory → Nat → List Byte → Memory
  | m, _, [] => m
  | m, i, b :: rest => Memory.writeAll (Memory.write m i b) (i + 1) rest

/-! ### The address space (R50-R60) -/

/-- The address is inside the region. -/
def inRegion (r : Region) (addr : Addr) : Bool := r.first.toNat ≤ addr.toNat && addr.toNat ≤ r.last.toNat

/-- The device a region gives an address of it (R60: the register window repeats every 8 bytes). -/
def regionDevice (k : RegionKind) (addr : Addr) : Device :=
  match k with
  | .device d => d
  | .ppuWindow => .ppuReg (addr.extractLsb' 0 3)

/-- `MAP(a)` (R51): total, the first region that holds the address, else `Fallback`. -/
def deviceAt : MemMap → Addr → Device
  | [], _ => .fallback
  | r :: rest, addr => if inRegion r addr then regionDevice r.kind addr else deviceAt rest addr

/-- `MAP = NES` (R60), with `RAM_WINDOW` and `DMA_TRIGGER_ADDR` as arguments (defaults 0x0800 and 0x4014). The trigger comes
first, since its address is taken out of the region around it (log entry 17). -/
def nesMap (ramWindow : Nat) (trigger : Addr) : MemMap :=
  [⟨trigger, trigger, .device .dmaTrigger⟩,
   ⟨0x0000, 0x1FFF, .device (.ram ramWindow)⟩,
   ⟨0x2000, 0x3FFF, .ppuWindow⟩,
   ⟨0x4000, 0x401F, .device .apu⟩]

/-- The default `NES` map (R7, R60). -/
def nesMapDefault : MemMap := nesMap 0x0800 0x4014

/-- The index of the backing store that a device reads and writes for an address: `a mod W` for `Ram(W)` (R54), a itself for
`Fallback` (R58), none for the others (R55-R57). -/
def storeIndex (d : Device) (addr : Addr) : Option Nat :=
  match d with
  | .ram window => some (addr.toNat % window)
  | .fallback => some addr.toNat
  | .ppuReg _ | .apu | .dmaTrigger => none

/-- The index of the backing store behind an address under the session's map. -/
def backing (s : State) (addr : Addr) : Option Nat := storeIndex (deviceAt s.params.map addr) addr

/-- The byte of the backing store behind an address, looked at without an access; 0x00 where no store is behind it. -/
def peek (s : State) (addr : Addr) : Byte :=
  match backing s addr with
  | some i => s.mem.read i
  | none => 0x00

/-- Record a call delivered to the peripheral (R300). -/
def deliver (call : PeriphCall) (s : State) : State :=
  { s with events := ⟨s.periphCycles, call⟩ :: s.events }

/-- `DmaArm(v)` (spec/50_scheduler_dma.md R306): one more dummy cycle on an odd total-cycle count. -/
def dmaArm (v : Byte) (s : State) : State :=
  { s with dmaCount := 513 + s.cycles % 2, dmaPage := v, dmaLow := 0x00 }

/-- `MemRead(a)` (R10, R51): the byte and the state the read leaves. A peripheral register answers a free value (R55). -/
def busRead (addr : Addr) (s : State) : Byte × State :=
  match deviceAt s.params.map addr with
  | .ram window => (s.mem.read (addr.toNat % window), s)
  | .fallback => (s.mem.read addr.toNat, s)
  | .ppuReg n => (Config.periphRead s.draws, deliver (.regRead n) { s with draws := s.draws + 1 })
  | .apu => (0x00, s)
  | .dmaTrigger => (0x00, s)

/-- `MemWrite(a, v)` (R10, R51). -/
def busWrite (addr : Addr) (v : Byte) (s : State) : State :=
  match deviceAt s.params.map addr with
  | .ram window => { s with mem := s.mem.write (addr.toNat % window) v }
  | .fallback => { s with mem := s.mem.write addr.toNat v }
  | .ppuReg n => deliver (.regWrite n v) s
  | .apu => s
  | .dmaTrigger => dmaArm v s

/-! ### 16-bit reads (R62), low byte first -/

/-- Two byte reads, the low byte first. -/
def readPair (lo hi : Addr) (s : State) : Addr × State :=
  let l := busRead lo s
  let h := busRead hi l.2
  (word h.1 l.1, h.2)

/-- The zero-page address of a byte, `0x00:z`. -/
def zeroPage (z : Byte) : Addr := word 0x00 z

/-- `Read16(a)`: the second address wraps at 0xFFFF. -/
def read16 (addr : Addr) (s : State) : Addr × State := readPair addr (addr + 1) s

/-- `Read16zp(z)`: the second address wraps within page 0. -/
def read16zp (z : Byte) (s : State) : Addr × State := readPair (zeroPage z) (zeroPage (z + 1)) s

/-- `Read16bug(a)`: the second address stays in the page of the first (R131). -/
def read16bug (addr : Addr) (s : State) : Addr × State :=
  readPair addr (word (hiByte addr) (loByte addr + 1)) s

/-! ### The stack (R74) -/

/-- The address in page 1 that a stack pointer designates (R24). -/
def stackAddr (sp : Byte) : Addr := word 0x01 sp

/-- `Push(v)`: the write first, then the decrement modulo 256. -/
def push (v : Byte) (s : State) : State :=
  let t := busWrite (stackAddr s.sp) v s
  { t with sp := t.sp - 1 }

/-- `Pull()`: the increment modulo 256 first, then the read. -/
def pull (s : State) : Byte × State :=
  let t := { s with sp := s.sp + 1 }
  busRead (stackAddr t.sp) t

/-- Push a 16-bit value, high byte first (R61). -/
def pushWord (v : Addr) (s : State) : State := push (loByte v) (push (hiByte v) s)

/-- Pull a 16-bit value, low byte first. -/
def pullWord (s : State) : Addr × State :=
  let l := pull s
  let h := pull l.2
  (word h.1 l.1, h.2)

/-! ### Interrupts (spec/60_exceptions.md R342-R344) -/

/-- The NMI vector's low address (R73). -/
def nmiVector : Addr := 0xFFFA

/-- The RESET vector's low address (R73). -/
def resetVector : Addr := 0xFFFC

/-- The IRQ and BRK vector's low address (R73). -/
def irqVector : Addr := 0xFFFE

/-- `InterruptSequence(ret, b, vector)` (R342), shared by BRK, IRQ and NMI: push PC high, PC low and the status with bit 4
equal to b, load PC from the vector, set I. -/
def interruptSequence (ret : Addr) (b : Bool) (vector : Addr) (s : State) : State :=
  let pushed := push (pushedStatus b s.p) (pushWord ret s)
  let target := read16 vector pushed
  let t := target.2
  { t with pc := target.1, p := setFlag .i true t.p }

/-- `IrqSequence()` (R343): PC is the address of the instruction not fetched; the latch is cleared. -/
def irqSequence (s : State) : State :=
  { interruptSequence s.pc false irqVector s with irqPending := false }

/-- `NmiSequence()` (R344). -/
def nmiSequence (s : State) : State :=
  { interruptSequence s.pc false nmiVector s with nmiPending := false }

/-- The return from BRK, IRQ and NMI (R212, R351): pull the status, then PC low, then PC high; no adjustment of PC. -/
def returnFromInterrupt (s : State) : State :=
  let st := pull s
  let u := st.2
  let ret := pullWord { u with p := st.1 }
  let t := ret.2
  { t with pc := ret.1 }

/-! ### Budgets and the end of an instruction (spec/40_execution_cycle.md R106-R109) -/

/-- The page-cross cycle of an entry whose `page_penalty` flag is set (R108). -/
def readPenalty (crossed : Bool) : Nat := if crossed then 1 else 0

/-- The page-cross cycle of an entry whose flag is clear: only under `PENALTY_ON_WRITES` (R108). `crossed` is never true
outside ABX, ABY and IZY. -/
def writePenalty (crossed : Bool) (s : State) : Nat :=
  if crossed && s.params.penaltyOnWrites then 1 else 0

/-- What follows every operation handler: `P.U <- 1` (R106) and `rem <- Budget` (R107). -/
def finish (budget : Nat) (s : State) : Host.Outcome State Fault Refusal :=
  .next { s with p := forceUnused s.p, rem := budget }

/-- Apply a function to the next state of an outcome. -/
def onNext (f : State → State) : Host.Outcome State Fault Refusal → Host.Outcome State Fault Refusal
  | .next s => .next (f s)
  | .fault r => .fault r
  | .refused r => .refused r

end Sys2Proof.Machine
end

