-- ==== Sys2Proof/Machine/Operands.lean ====
section
/-! DEFINITION. The resolvers (spec/41_addressing_modes.md R120-R136) and the operand accesses (R135), with the base cycle count
of each form (spec/70_reset_and_hazards.md R395). The operand bytes themselves were read by the fetch (Machine/Fetch.lean), so
PC is the address of the next instruction here. -/

namespace Sys2Proof.Machine

/-- What a resolver returns for `Mem(ea)` (R121): the effective address, whether indexing crossed a page, and the state its
pointer reads leave. -/
structure Resolved where
  ea : Addr
  crossed : Bool
  state : State
deriving DecidableEq, Repr

/-- The page-cross test of R108. -/
def pageCrossed (base ea : Addr) : Bool := hiByte base != hiByte ea

/-- An address indexed by a byte, carrying into the high byte (R129, R130, R133). -/
def indexed (base : Addr) (index : Byte) : Addr := base + index.setWidth 16

/-- The resolver of each memory form. -/
def resolve (m : MemMode) (s : State) : Resolved :=
  match m with
  | .zp z => ⟨zeroPage z, false, s⟩
  | .zpx z => ⟨zeroPage (z + s.x), false, s⟩
  | .zpy z => ⟨zeroPage (z + s.y), false, s⟩
  | .abs a => ⟨a, false, s⟩
  | .abx a => ⟨indexed a s.x, pageCrossed a (indexed a s.x), s⟩
  | .aby a => ⟨indexed a s.y, pageCrossed a (indexed a s.y), s⟩
  | .izx z =>
    let p := read16zp (z + s.x) s
    ⟨p.1, false, p.2⟩
  | .izy z =>
    let p := read16zp z s
    ⟨indexed p.1 s.y, pageCrossed p.1 (indexed p.1 s.y), p.2⟩

/-- The target of a branch (R134): the offset is taken from the address of the next instruction. -/
def branchTarget (off : Byte) (s : State) : Addr := s.pc + off.signExtend 16

/-- The target of JMP (R209): the operand word, or the word it points to. -/
def jumpTarget (t : JumpOperand) (s : State) : Addr × State :=
  match t with
  | .abs a => (a, s)
  | .ind a => read16bug a s

/-- What `Operand()` gives an instruction that only reads (R135): the byte, `crossed`, and the state after the reads. -/
structure Fetched where
  value : Byte
  crossed : Bool
  state : State
deriving DecidableEq, Repr

/-- `Operand()` on `Mem(ea)`: the pointer reads, then one read of ea (R66). -/
def loadMem (m : MemMode) (s : State) : Fetched :=
  let r := resolve m s
  let b := busRead r.ea r.state
  ⟨b.1, r.crossed, b.2⟩

/-- `Operand()`: the immediate byte was read in its place among the accesses by the fetch (log entry 11). -/
def loadOperand (o : ReadOperand) (s : State) : Fetched :=
  match o with
  | .imm v => ⟨v, false, s⟩
  | .mem m => loadMem m s

/-- What the resolver of any form does to the state without touching the operand (R250): the pointer reads and `crossed`. -/
def resolveOnly (o : Operand) (s : State) : Bool × State :=
  match o with
  | .imp | .acc | .imm _ | .rel _ => (false, s)
  | .mem m => ((resolve m s).crossed, (resolve m s).state)
  | .ind a => (false, (read16bug a s).2)

/-- The base cycles of a read-type instruction (R395). -/
def readCycles (o : ReadOperand) : Nat :=
  match o with
  | .imm _ => 2
  | .mem (.zp _) => 3
  | .mem (.zpx _) | .mem (.zpy _) => 4
  | .mem (.abs _) => 4
  | .mem (.abx _) | .mem (.aby _) => 4
  | .mem (.izx _) => 6
  | .mem (.izy _) => 5

/-- The base cycles of a store (R395). -/
def storeCycles (m : MemMode) : Nat :=
  match m with
  | .zp _ => 3
  | .zpx _ | .zpy _ => 4
  | .abs _ => 4
  | .abx _ | .aby _ => 5
  | .izx _ | .izy _ => 6

/-- The base cycles of a read-modify-write (R395). IZX and IZY do not occur in the table; they take what the unofficial
read-modify-write entries of those modes take, 8 (R252; log entry 20). -/
def rmwCycles (o : RmwOperand) : Nat :=
  match o with
  | .acc => 2
  | .mem (.zp _) => 5
  | .mem (.zpx _) | .mem (.zpy _) => 6
  | .mem (.abs _) => 6
  | .mem (.abx _) | .mem (.aby _) => 7
  | .mem (.izx _) | .mem (.izy _) => 8

end Sys2Proof.Machine
end

