-- ==== Sys2Proof/Machine/Arith.lean ====
section
/-! DEFINITION. Arithmetic, logical and compare instructions (spec/43_arithmetic_logic.md R160-R171). -/

namespace Sys2Proof.Machine

/-- Read the operand, compute a new A and status from A, the operand and P, and end the instruction. -/
def accumulate (f : Byte → Byte → Byte → Computed) (o : ReadOperand) (s : State) : Host.Outcome State Fault Refusal :=
  let r := loadOperand o s
  let t := r.state
  let c := f t.a r.value t.p
  finish (readCycles o + readPenalty r.crossed) { t with a := c.result, p := c.status }

/-- ADC (R162). -/
def execAdc (o : ReadOperand) (s : State) : Host.Outcome State Fault Refusal :=
  accumulate addWithCarry o s

/-- SBC (R163): the add routine with the operand's complement. -/
def execSbc (o : ReadOperand) (s : State) : Host.Outcome State Fault Refusal :=
  accumulate (fun a m p => addWithCarry a (m ^^^ 0xFF) p) o s

/-- AND (R164). -/
def execAnd (o : ReadOperand) (s : State) : Host.Outcome State Fault Refusal :=
  accumulate (fun a m p => ⟨a &&& m, setNZ (a &&& m) p⟩) o s

/-- ORA (R165). -/
def execOra (o : ReadOperand) (s : State) : Host.Outcome State Fault Refusal :=
  accumulate (fun a m p => ⟨a ||| m, setNZ (a ||| m) p⟩) o s

/-- EOR (R166). -/
def execEor (o : ReadOperand) (s : State) : Host.Outcome State Fault Refusal :=
  accumulate (fun a m p => ⟨a ^^^ m, setNZ (a ^^^ m) p⟩) o s

/-- BIT (R167): only flags are written. -/
def execBit (m : MemMode) (s : State) : Host.Outcome State Fault Refusal :=
  let r := loadMem m s
  let t := r.state
  finish (readCycles (.mem m) + readPenalty r.crossed) { t with p := bitTestStatus t.a r.value t.p }

/-- Read the operand and compare a register's value with it (R168). -/
def compareWith (reg : Byte) (o : ReadOperand) (s : State) : Host.Outcome State Fault Refusal :=
  let r := loadOperand o s
  let t := r.state
  finish (readCycles o + readPenalty r.crossed) { t with p := compareStatus reg r.value t.p }

/-- CMP (R169). -/
def execCmp (o : ReadOperand) (s : State) : Host.Outcome State Fault Refusal := compareWith s.a o s

/-- CPX (R170). -/
def execCpx (o : ReadOperand) (s : State) : Host.Outcome State Fault Refusal := compareWith s.x o s

/-- CPY (R171). -/
def execCpy (o : ReadOperand) (s : State) : Host.Outcome State Fault Refusal := compareWith s.y o s

end Sys2Proof.Machine
end

