-- ==== Sys2Proof/Machine/Control.lean ====
section
/-! DEFINITION. Control-transfer instructions (spec/45_control_flow.md R200-R213). -/

namespace Sys2Proof.Machine

/-- `Branch(cond)` (R200): a taken branch costs `BRANCH_TAKEN_EXTRA` more and no page cycle (R109). -/
def branchIf (cond : Bool) (off : Byte) (s : State) : Host.Outcome State Fault Refusal :=
  if cond then finish (2 + s.params.branchTakenExtra) { s with pc := branchTarget off s }
  else finish 2 s

/-- BPL (R201). -/
def execBpl (off : Byte) (s : State) : Host.Outcome State Fault Refusal := branchIf (!getFlag .n s.p) off s

/-- BMI (R202). -/
def execBmi (off : Byte) (s : State) : Host.Outcome State Fault Refusal := branchIf (getFlag .n s.p) off s

/-- BVC (R203). -/
def execBvc (off : Byte) (s : State) : Host.Outcome State Fault Refusal := branchIf (!getFlag .v s.p) off s

/-- BVS (R204). -/
def execBvs (off : Byte) (s : State) : Host.Outcome State Fault Refusal := branchIf (getFlag .v s.p) off s

/-- BCC (R205). -/
def execBcc (off : Byte) (s : State) : Host.Outcome State Fault Refusal := branchIf (!getFlag .c s.p) off s

/-- BCS (R206). -/
def execBcs (off : Byte) (s : State) : Host.Outcome State Fault Refusal := branchIf (getFlag .c s.p) off s

/-- BNE (R207). -/
def execBne (off : Byte) (s : State) : Host.Outcome State Fault Refusal := branchIf (!getFlag .z s.p) off s

/-- BEQ (R208). -/
def execBeq (off : Byte) (s : State) : Host.Outcome State Fault Refusal := branchIf (getFlag .z s.p) off s

/-- JMP (R209): 3 cycles absolute, 5 indirect (R395). -/
def execJmp (t : JumpOperand) (s : State) : Host.Outcome State Fault Refusal :=
  let j := jumpTarget t s
  let u := j.2
  let cycles := match t with
    | .abs _ => 3
    | .ind _ => 5
  finish cycles { u with pc := j.1 }

/-- JSR (R210): the address of its own last byte is pushed; the target was read before the pushes (D42). -/
def execJsr (target : Addr) (s : State) : Host.Outcome State Fault Refusal :=
  let t := pushWord (s.pc - 1) s
  finish 6 { t with pc := target }

/-- RTS (R211). -/
def execRts (s : State) : Host.Outcome State Fault Refusal :=
  let r := pullWord s
  let t := r.2
  finish 6 { t with pc := r.1 + 1 }

/-- RTI (R212). -/
def execRti (s : State) : Host.Outcome State Fault Refusal := finish 6 (returnFromInterrupt s)

/-- BRK (R213): the interrupt sequence with B set and the address past the padding byte. -/
def execBrk (s : State) : Host.Outcome State Fault Refusal :=
  finish 7 (interruptSequence (s.pc + 1) true irqVector s)

end Sys2Proof.Machine
end

