-- ==== Sys2Proof/Machine/Load.lean ====
section
/-! DEFINITION. Load, store and transfer instructions (spec/42_load_store_transfer.md R140-R151). -/

namespace Sys2Proof.Machine

/-- LDA (R140). -/
def execLda (o : ReadOperand) (s : State) : Host.Outcome State Fault Refusal :=
  let r := loadOperand o s
  let t := r.state
  finish (readCycles o + readPenalty r.crossed) { t with a := r.value, p := setNZ r.value t.p }

/-- LDX (R141). -/
def execLdx (o : ReadOperand) (s : State) : Host.Outcome State Fault Refusal :=
  let r := loadOperand o s
  let t := r.state
  finish (readCycles o + readPenalty r.crossed) { t with x := r.value, p := setNZ r.value t.p }

/-- LDY (R142). -/
def execLdy (o : ReadOperand) (s : State) : Host.Outcome State Fault Refusal :=
  let r := loadOperand o s
  let t := r.state
  finish (readCycles o + readPenalty r.crossed) { t with y := r.value, p := setNZ r.value t.p }

/-- `StoreOperand(v)` of a register: the resolver's pointer reads, then one write, no read of ea (R143). -/
def storeRegister (v : Byte) (m : MemMode) (s : State) : Host.Outcome State Fault Refusal :=
  let r := resolve m s
  finish (storeCycles m + writePenalty r.crossed s) (busWrite r.ea v r.state)

/-- STA (R143). -/
def execSta (m : MemMode) (s : State) : Host.Outcome State Fault Refusal := storeRegister s.a m s

/-- STX (R144). -/
def execStx (m : MemMode) (s : State) : Host.Outcome State Fault Refusal := storeRegister s.x m s

/-- STY (R145). -/
def execSty (m : MemMode) (s : State) : Host.Outcome State Fault Refusal := storeRegister s.y m s

/-- TAX (R146). -/
def execTax (s : State) : Host.Outcome State Fault Refusal :=
  finish 2 { s with x := s.a, p := setNZ s.a s.p }

/-- TAY (R147). -/
def execTay (s : State) : Host.Outcome State Fault Refusal :=
  finish 2 { s with y := s.a, p := setNZ s.a s.p }

/-- TXA (R148). -/
def execTxa (s : State) : Host.Outcome State Fault Refusal :=
  finish 2 { s with a := s.x, p := setNZ s.x s.p }

/-- TYA (R149). -/
def execTya (s : State) : Host.Outcome State Fault Refusal :=
  finish 2 { s with a := s.y, p := setNZ s.y s.p }

/-- TSX (R150). -/
def execTsx (s : State) : Host.Outcome State Fault Refusal :=
  finish 2 { s with x := s.sp, p := setNZ s.sp s.p }

/-- TXS (R151): no flag is written. -/
def execTxs (s : State) : Host.Outcome State Fault Refusal :=
  finish 2 { s with sp := s.x }

end Sys2Proof.Machine
end

