-- ==== Sys2Proof/Machine/Shift.lean ====
section
/-! DEFINITION. Shift, rotate, increment and decrement instructions (spec/44_shift_incdec.md R180-R190). -/

namespace Sys2Proof.Machine

/-- Read-modify-write of a byte of memory: exactly one read of ea, then exactly one write (R190). -/
def modifyMem (f : Byte → Byte → Computed) (m : MemMode) (s : State) : Host.Outcome State Fault Refusal :=
  let r := resolve m s
  let b := busRead r.ea r.state
  let c := f b.1 b.2.p
  let t := busWrite r.ea c.result b.2
  finish (rmwCycles (.mem m) + writePenalty r.crossed s) { t with p := c.status }

/-- A shift or rotate of the accumulator or of a byte of memory. -/
def modify (f : Byte → Byte → Computed) (o : RmwOperand) (s : State) : Host.Outcome State Fault Refusal :=
  match o with
  | .acc =>
    let c := f s.a s.p
    finish (rmwCycles .acc) { s with a := c.result, p := c.status }
  | .mem m => modifyMem f m s

/-- ASL (R180). -/
def execAsl (o : RmwOperand) (s : State) : Host.Outcome State Fault Refusal := modify shiftLeft o s

/-- LSR (R181). -/
def execLsr (o : RmwOperand) (s : State) : Host.Outcome State Fault Refusal := modify shiftRight o s

/-- ROL (R182). -/
def execRol (o : RmwOperand) (s : State) : Host.Outcome State Fault Refusal := modify rotateLeft o s

/-- ROR (R183). -/
def execRor (o : RmwOperand) (s : State) : Host.Outcome State Fault Refusal := modify rotateRight o s

/-- INC (R184). -/
def execInc (m : MemMode) (s : State) : Host.Outcome State Fault Refusal := modifyMem increment m s

/-- DEC (R185). -/
def execDec (m : MemMode) (s : State) : Host.Outcome State Fault Refusal := modifyMem decrement m s

/-- INX (R186). -/
def execInx (s : State) : Host.Outcome State Fault Refusal :=
  let c := increment s.x s.p
  finish 2 { s with x := c.result, p := c.status }

/-- INY (R187). -/
def execIny (s : State) : Host.Outcome State Fault Refusal :=
  let c := increment s.y s.p
  finish 2 { s with y := c.result, p := c.status }

/-- DEX (R188). -/
def execDex (s : State) : Host.Outcome State Fault Refusal :=
  let c := decrement s.x s.p
  finish 2 { s with x := c.result, p := c.status }

/-- DEY (R189). -/
def execDey (s : State) : Host.Outcome State Fault Refusal :=
  let c := decrement s.y s.p
  finish 2 { s with y := c.result, p := c.status }

end Sys2Proof.Machine
end

