-- ==== Sys2Proof/Machine/Stack.lean ====
section
/-! DEFINITION. Stack, flag and no-operation instructions (spec/46_stack_flags_nop.md R230-R241). -/

namespace Sys2Proof.Machine

/-- PHA (R230). -/
def execPha (s : State) : Host.Outcome State Fault Refusal := finish 3 (push s.a s)

/-- PHP (R231): the pushed copy has B and U set. -/
def execPhp (s : State) : Host.Outcome State Fault Refusal := finish 3 (push (pushedStatus true s.p) s)

/-- PLA (R232). -/
def execPla (s : State) : Host.Outcome State Fault Refusal :=
  let r := pull s
  let t := r.2
  finish 4 { t with a := r.1, p := setNZ r.1 t.p }

/-- PLP (R233): bit 4 is stored as pulled (D26), bit 5 is forced by the common step. -/
def execPlp (s : State) : Host.Outcome State Fault Refusal :=
  let r := pull s
  let t := r.2
  finish 4 { t with p := r.1 }

/-- Write one flag and end a 2-cycle instruction. -/
def writeFlag (f : Flag) (on : Bool) (s : State) : Host.Outcome State Fault Refusal :=
  finish 2 { s with p := setFlag f on s.p }

/-- CLC (R234). -/
def execClc (s : State) : Host.Outcome State Fault Refusal := writeFlag .c false s

/-- SEC (R235). -/
def execSec (s : State) : Host.Outcome State Fault Refusal := writeFlag .c true s

/-- CLI (R236). -/
def execCli (s : State) : Host.Outcome State Fault Refusal := writeFlag .i false s

/-- SEI (R237). -/
def execSei (s : State) : Host.Outcome State Fault Refusal := writeFlag .i true s

/-- CLD (R238). -/
def execCld (s : State) : Host.Outcome State Fault Refusal := writeFlag .d false s

/-- SED (R239). -/
def execSed (s : State) : Host.Outcome State Fault Refusal := writeFlag .d true s

/-- CLV (R240). -/
def execClv (s : State) : Host.Outcome State Fault Refusal := writeFlag .v false s

/-- NOP (R241). -/
def execNop (s : State) : Host.Outcome State Fault Refusal := finish 2 s

end Sys2Proof.Machine
end

