-- ==== Sys2Proof/Machine/Unofficial.lean ====
section
/-! DEFINITION. The unofficial opcodes (spec/47_unofficial.md R250-R273): in this core each is inert. -/

namespace Sys2Proof.Machine

/-- The page-cross cycle of an unofficial entry: under its own flag, or under `PENALTY_ON_WRITES` (R108, R250). -/
def unofficialPenalty (shape : Shape) (crossed : Bool) (s : State) : Nat :=
  if shape.pagePenalty then readPenalty crossed else writePenalty crossed s

/-- The inert operation (R250): the resolver of the entry's mode, with its pointer reads, and the budget of the entry's shape;
no register, flag or byte of memory changes and the operand is not read. -/
def inert (op : Byte) (o : Operand) (s : State) : Host.Outcome State Fault Refusal :=
  let shape := shapeOf s.params.unoffShape op
  let r := resolveOnly o s
  finish (shape.cycles + unofficialPenalty shape r.1 s) r.2

/-- KIL (R251): the next byte follows, there is no halt. -/
def execKil (op : Byte) (o : Operand) (s : State) : Host.Outcome State Fault Refusal := inert op o s

/-- SLO (R252). -/
def execSlo (op : Byte) (o : Operand) (s : State) : Host.Outcome State Fault Refusal := inert op o s

/-- RLA (R253). -/
def execRla (op : Byte) (o : Operand) (s : State) : Host.Outcome State Fault Refusal := inert op o s

/-- SRE (R254). -/
def execSre (op : Byte) (o : Operand) (s : State) : Host.Outcome State Fault Refusal := inert op o s

/-- RRA (R255). -/
def execRra (op : Byte) (o : Operand) (s : State) : Host.Outcome State Fault Refusal := inert op o s

/-- SAX (R256). -/
def execSax (op : Byte) (o : Operand) (s : State) : Host.Outcome State Fault Refusal := inert op o s

/-- LAX (R257). -/
def execLax (op : Byte) (o : Operand) (s : State) : Host.Outcome State Fault Refusal := inert op o s

/-- DCP (R258). -/
def execDcp (op : Byte) (o : Operand) (s : State) : Host.Outcome State Fault Refusal := inert op o s

/-- ISC (R259). -/
def execIsc (op : Byte) (o : Operand) (s : State) : Host.Outcome State Fault Refusal := inert op o s

/-- ANC (R260). -/
def execAnc (op : Byte) (o : Operand) (s : State) : Host.Outcome State Fault Refusal := inert op o s

/-- ALR (R261). -/
def execAlr (op : Byte) (o : Operand) (s : State) : Host.Outcome State Fault Refusal := inert op o s

/-- ARR (R262). -/
def execArr (op : Byte) (o : Operand) (s : State) : Host.Outcome State Fault Refusal := inert op o s

/-- XAA (R263). -/
def execXaa (op : Byte) (o : Operand) (s : State) : Host.Outcome State Fault Refusal := inert op o s

/-- LXA (R264). -/
def execLxa (op : Byte) (o : Operand) (s : State) : Host.Outcome State Fault Refusal := inert op o s

/-- AXS (R265). -/
def execAxs (op : Byte) (o : Operand) (s : State) : Host.Outcome State Fault Refusal := inert op o s

/-- USBC (R266). -/
def execUsbc (op : Byte) (o : Operand) (s : State) : Host.Outcome State Fault Refusal := inert op o s

/-- AHX (R267). -/
def execAhx (op : Byte) (o : Operand) (s : State) : Host.Outcome State Fault Refusal := inert op o s

/-- SHY (R268). -/
def execShy (op : Byte) (o : Operand) (s : State) : Host.Outcome State Fault Refusal := inert op o s

/-- SHX (R269). -/
def execShx (op : Byte) (o : Operand) (s : State) : Host.Outcome State Fault Refusal := inert op o s

/-- TAS (R270). -/
def execTas (op : Byte) (o : Operand) (s : State) : Host.Outcome State Fault Refusal := inert op o s

/-- LAS (R271). -/
def execLas (op : Byte) (o : Operand) (s : State) : Host.Outcome State Fault Refusal := inert op o s

/-- The unofficial NOPs (R272). -/
def execNopUnofficial (op : Byte) (o : Operand) (s : State) : Host.Outcome State Fault Refusal := inert op o s

end Sys2Proof.Machine
end

