-- ==== Sys2Proof/Machine/Dispatch.lean ====
section
/-! DEFINITION. The dispatch on the instruction (spec/40_execution_cycle.md R105): one arm per constructor of Instr. -/

namespace Sys2Proof.Machine

def exec (i : Instr) (s : State) : Host.Outcome State Fault Refusal :=
  match i with
  | .lda o => Sys2Proof.Machine.execLda o s
  | .ldx o => Sys2Proof.Machine.execLdx o s
  | .ldy o => Sys2Proof.Machine.execLdy o s
  | .sta m => Sys2Proof.Machine.execSta m s
  | .stx m => Sys2Proof.Machine.execStx m s
  | .sty m => Sys2Proof.Machine.execSty m s
  | .tax => Sys2Proof.Machine.execTax s
  | .tay => Sys2Proof.Machine.execTay s
  | .txa => Sys2Proof.Machine.execTxa s
  | .tya => Sys2Proof.Machine.execTya s
  | .tsx => Sys2Proof.Machine.execTsx s
  | .txs => Sys2Proof.Machine.execTxs s
  | .adc o => Sys2Proof.Machine.execAdc o s
  | .sbc o => Sys2Proof.Machine.execSbc o s
  | .and o => Sys2Proof.Machine.execAnd o s
  | .ora o => Sys2Proof.Machine.execOra o s
  | .eor o => Sys2Proof.Machine.execEor o s
  | .bit m => Sys2Proof.Machine.execBit m s
  | .cmp o => Sys2Proof.Machine.execCmp o s
  | .cpx o => Sys2Proof.Machine.execCpx o s
  | .cpy o => Sys2Proof.Machine.execCpy o s
  | .asl o => Sys2Proof.Machine.execAsl o s
  | .lsr o => Sys2Proof.Machine.execLsr o s
  | .rol o => Sys2Proof.Machine.execRol o s
  | .ror o => Sys2Proof.Machine.execRor o s
  | .inc m => Sys2Proof.Machine.execInc m s
  | .dec m => Sys2Proof.Machine.execDec m s
  | .inx => Sys2Proof.Machine.execInx s
  | .iny => Sys2Proof.Machine.execIny s
  | .dex => Sys2Proof.Machine.execDex s
  | .dey => Sys2Proof.Machine.execDey s
  | .bpl off => Sys2Proof.Machine.execBpl off s
  | .bmi off => Sys2Proof.Machine.execBmi off s
  | .bvc off => Sys2Proof.Machine.execBvc off s
  | .bvs off => Sys2Proof.Machine.execBvs off s
  | .bcc off => Sys2Proof.Machine.execBcc off s
  | .bcs off => Sys2Proof.Machine.execBcs off s
  | .bne off => Sys2Proof.Machine.execBne off s
  | .beq off => Sys2Proof.Machine.execBeq off s
  | .jmp t => Sys2Proof.Machine.execJmp t s
  | .jsr a => Sys2Proof.Machine.execJsr a s
  | .rts => Sys2Proof.Machine.execRts s
  | .rti => Sys2Proof.Machine.execRti s
  | .brk => Sys2Proof.Machine.execBrk s
  | .pha => Sys2Proof.Machine.execPha s
  | .php => Sys2Proof.Machine.execPhp s
  | .pla => Sys2Proof.Machine.execPla s
  | .plp => Sys2Proof.Machine.execPlp s
  | .clc => Sys2Proof.Machine.execClc s
  | .sec => Sys2Proof.Machine.execSec s
  | .cli => Sys2Proof.Machine.execCli s
  | .sei => Sys2Proof.Machine.execSei s
  | .cld => Sys2Proof.Machine.execCld s
  | .sed => Sys2Proof.Machine.execSed s
  | .clv => Sys2Proof.Machine.execClv s
  | .nop => Sys2Proof.Machine.execNop s
  | .kil op o => Sys2Proof.Machine.execKil op o s
  | .slo op o => Sys2Proof.Machine.execSlo op o s
  | .rla op o => Sys2Proof.Machine.execRla op o s
  | .sre op o => Sys2Proof.Machine.execSre op o s
  | .rra op o => Sys2Proof.Machine.execRra op o s
  | .sax op o => Sys2Proof.Machine.execSax op o s
  | .lax op o => Sys2Proof.Machine.execLax op o s
  | .dcp op o => Sys2Proof.Machine.execDcp op o s
  | .isc op o => Sys2Proof.Machine.execIsc op o s
  | .anc op o => Sys2Proof.Machine.execAnc op o s
  | .alr op o => Sys2Proof.Machine.execAlr op o s
  | .arr op o => Sys2Proof.Machine.execArr op o s
  | .xaa op o => Sys2Proof.Machine.execXaa op o s
  | .lxa op o => Sys2Proof.Machine.execLxa op o s
  | .axs op o => Sys2Proof.Machine.execAxs op o s
  | .usbc op o => Sys2Proof.Machine.execUsbc op o s
  | .ahx op o => Sys2Proof.Machine.execAhx op o s
  | .shy op o => Sys2Proof.Machine.execShy op o s
  | .shx op o => Sys2Proof.Machine.execShx op o s
  | .tas op o => Sys2Proof.Machine.execTas op o s
  | .las op o => Sys2Proof.Machine.execLas op o s
  | .nopUnofficial op o => Sys2Proof.Machine.execNopUnofficial op o s

end Sys2Proof.Machine
end

