-- ==== Sys2Proof/Machine/Fetch.lean ====
section
/-! DEFINITION. Fetching an instruction (spec/40_execution_cycle.md R102-R104, spec/20_memory.md R66): the opcode byte, then the
operand bytes in address order, with PC moved past them; and placing an instruction where the next fetch finds it. -/

namespace Sys2Proof.Machine

/-- The instruction's operand byte is skipped and not read: an inert entry with an immediate operand (spec/47_unofficial.md
R260: "The immediate byte is skipped, not read"). -/
def skipsOperand (i : Instr) : Bool := i.unofficial?.isSome && i.mode == .imm

/-- Move PC past `n` bytes, modulo 2^16 (R25). -/
def advance (n : Nat) (s : State) : State := { s with pc := s.pc + BitVec.ofNat 16 n }

/-- The fetch: the instruction at PC and the state after its bytes were read. A skipped operand byte is looked at without an
access; nothing depends on its value (log entry 11). -/
def fetch (s : State) : Instr × State :=
  let opc := busRead s.pc s
  let op := opc.1
  let unoff := s.params.unoffShape
  match operandCount unoff op with
  | 0 => (instrOf unoff op 0 0, advance 1 opc.2)
  | 1 =>
    if skipsOperand (instrOf unoff op 0 0) then
      (instrOf unoff op (peek opc.2 (s.pc + 1)) 0, advance 2 opc.2)
    else
      let b1 := busRead (s.pc + 1) opc.2
      (instrOf unoff op b1.1 0, advance 2 b1.2)
  | _ =>
    let b1 := busRead (s.pc + 1) opc.2
    let b2 := busRead (s.pc + 2) b1.2
    (instrOf unoff op b1.1 b2.1, advance 3 b2.2)

/-- Put a byte into the backing store behind an address, with no device effect; nothing where no store is behind it. -/
def placeByte (addr : Addr) (v : Byte) (s : State) : State :=
  match backing s addr with
  | some i => { s with mem := s.mem.write i v }
  | none => s

/-- Put bytes behind consecutive addresses (modulo 2^16). -/
def placeBytes : Addr → List Byte → State → State
  | _, [], s => s
  | addr, v :: rest, s => placeBytes (addr + 1) rest (placeByte addr v s)

/-- Make the next tick a boundary that dispatches an instruction: `reset()` done, no DMA, no countdown left, no latched
request (R100, R301, R383). -/
def clearTheWay (s : State) : State :=
  { s with ready := true, dmaCount := 0, rem := 0, nmiPending := false, irqPending := false }

/-- The instruction word stored at PC, and the way clear for the next step to fetch and run it (log entry 8). -/
def placeInstruction (s : State) (nbits w : Nat) : State :=
  placeBytes s.pc (tableWordBytes nbits w) (clearTheWay s)

end Sys2Proof.Machine
end

