-- ==== Sys2Proof/Machine/Scheduler.lean ====
section
/-! DEFINITION. `Processor.clock()` (spec/40_execution_cycle.md R100), the OAM DMA controller's step
(spec/50_scheduler_dma.md R306-R310), `Scheduler.tick()` (R301) and `Processor.reset()` (spec/70_reset_and_hazards.md R380). -/

namespace Sys2Proof.Machine

/-! ### The Processor -/

/-- The next `clock()` call is an instruction boundary: the counter is 0 after its decrement (R100). -/
def atBoundary (s : State) : Bool := decide (s.rem ≤ 1)

/-- An IRQ is latched and not masked (R101). -/
def irqTaken (s : State) : Bool := s.irqPending && !getFlag .i s.p

/-- `kind = Interrupt`: the budget is `INT_CYCLES` and the dispatch is never a trap (R100, R112). -/
def endInterrupt (s : State) : State := { s with rem := s.params.intCycles, trap := false }

/-- The trap observable after an instruction fetched at `before` (R112). -/
def noteTrap (before : Addr) (s : State) : State := { s with trap := s.pc == before }

/-- Fetch, decode, resolve and execute the instruction at PC, then compute `trap` (R100, R102-R107, R112). -/
def dispatchInstruction (s : State) : Host.Outcome State Fault Refusal :=
  let f := fetch s
  onNext (noteTrap s.pc) (exec f.1 f.2)

/-- What a boundary dispatches (R101): NMI, else an unmasked IRQ, else the next instruction. -/
def dispatchBoundary (s : State) : Host.Outcome State Fault Refusal :=
  if s.nmiPending then .next (endInterrupt (nmiSequence s))
  else if irqTaken s then .next (endInterrupt (irqSequence s))
  else dispatchInstruction s

/-- `Processor.clock()` (R100). What it returns, "true iff an instruction boundary was just completed", is `atBoundary s`
(R110). -/
def clock (s : State) : Host.Outcome State Fault Refusal :=
  if atBoundary s then dispatchBoundary { s with rem := 0 }
  else .next { s with rem := s.rem - 1 }

/-- `Processor.reset()` (R380): no tick, no stack access, the two vector reads only. -/
def resetProcessor (s : State) : State :=
  let target := read16 resetVector { s with sp := 0xFF, p := 0x34 }
  let t := target.2
  let keep := !t.params.resetClearsLatches
  { t with pc := target.1, rem := t.params.resetCycles, nmiPending := keep && t.nmiPending,
           irqPending := keep && t.irqPending, ready := true }

/-! ### The DMA controller -/

/-- `in_progress()` (R307). -/
def dmaActive (s : State) : Bool := s.dmaCount != 0

/-- The read cycle (R309). -/
def dmaRead (s : State) : State :=
  let b := busRead (word s.dmaPage s.dmaLow) s
  let t := b.2
  { t with dmaLatch := b.1 }

/-- The write cycle (R310). -/
def dmaWrite (s : State) : State :=
  let t := deliver (.oamWrite s.dmaLatch) s
  { t with dmaLow := t.dmaLow + 1 }

/-- `DmaStep()` (R308): the count is compared after the decrement. -/
def dmaStep (s : State) : State :=
  let t := { s with dmaCount := s.dmaCount - 1 }
  if 512 ≤ t.dmaCount then t
  else if t.dmaCount % 2 = 1 then dmaRead t
  else dmaWrite t

/-! ### The Scheduler -/

/-- The peripheral's steps of a tick, then the cycle counter (R301, R303, R304). -/
def endTick (s : State) : State :=
  { s with periphCycles := s.periphCycles + s.params.periphRatio, cycles := s.cycles + 1 }

/-- `Scheduler.tick()` (R301), refused before the first `reset()` (R383). -/
def tick (s : State) : Host.Outcome State Fault Refusal :=
  if s.ready then
    if dmaActive s then .next (endTick (dmaStep s))
    else onNext endTick (clock s)
  else .refused .tickBeforeReset

end Sys2Proof.Machine
end

