-- ==== Sys2Proof/Machine/Step.lean ====
section
/-! DEFINITION. The step of the machine: one `Scheduler.tick()`, one CPU-cycle slot (spec/50_scheduler_dma.md R301). -/

namespace Sys2Proof.Machine

/-- One step is one `Scheduler.tick()` (R301; log entry 8). -/
def step (s : State) : Host.Outcome State Fault Refusal := tick s

/-- The state with an instruction word stored where the next step fetches and runs it (log entry 8). -/
def State.withFetchWord (s : State) (nbits w : Nat) : State := placeInstruction s nbits w

end Sys2Proof.Machine
end

