-- ==== Sys2Proof/Machine/HostPort.lean ====
section
/-! DEFINITION. The external interface of the core (spec/50_scheduler_dma.md R314-R316, spec/20_memory.md R76): what the host,
and the peripheral through the request latches, can do between two ticks. -/

namespace Sys2Proof.Machine

/-- The host's moves (R314). The observer has no influence on the state and is omitted (R113; log entry 13). -/
inductive HostMove
  | loadBytes (start : Addr) (bytes : List Byte)
  | reset
  | tick
  | raiseNmi
  | raiseIrq
  | read (addr : Addr)
  | write (addr : Addr) (v : Byte)
deriving DecidableEq, Repr

/-- `raise_nmi()` (R315). -/
def raiseNmi (s : State) : State := { s with nmiPending := true }

/-- `raise_irq()` (R315). -/
def raiseIrq (s : State) : State := { s with irqPending := true }

/-- `AddressSpace.load_bytes(start, bytes)` (R76): raw stores into the backing store, refused past 0xFFFF (D21). After the
first tick it is the same raw stores (R383; log entry 10). -/
def loadBytes (start : Addr) (bytes : List Byte) (s : State) : Host.Outcome State Fault Refusal :=
  if start.toNat + bytes.length ≤ 0x10000 then .next { s with mem := s.mem.writeAll start.toNat bytes }
  else .refused .loadPastEnd

/-- `AddressSpace.read(a)` by the host (R316): the byte it is given. -/
def hostReadValue (addr : Addr) (s : State) : Byte := (busRead addr s).1

/-- One move of the host. `read` answers `hostReadValue`; here is the state it leaves. -/
def hostMove (m : HostMove) (s : State) : Host.Outcome State Fault Refusal :=
  match m with
  | .loadBytes start bytes => loadBytes start bytes s
  | .reset => .next (resetProcessor s)
  | .tick => step s
  | .raiseNmi => .next (raiseNmi s)
  | .raiseIrq => .next (raiseIrq s)
  | .read addr => .next (busRead addr s).2
  | .write addr v => .next (busWrite addr v s)

/-- A run is a finite sequence of host moves (R321), stopping at the first refusal. -/
def hostRun : List HostMove → State → Host.Outcome State Fault Refusal
  | [], s => .next s
  | m :: rest, s =>
    match hostMove m s with
    | .next t => hostRun rest t
    | .fault r => .fault r
    | .refused r => .refused r

/-- A number of ticks in a row, stopping at the first refusal. -/
def ticks : Nat → State → Host.Outcome State Fault Refusal
  | 0, s => .next s
  | n + 1, s =>
    match step s with
    | .next t => ticks n t
    | .fault r => .fault r
    | .refused r => .refused r

end Sys2Proof.Machine
end

