-- ==== Sys2Proof/Safety.lean ====
section
/-! DEFINITION. The terms claims are stated in: what an event leaves unchanged, what a store does, and the invariants of the
machine. A run is safe when every step answers a next state, which every step after `reset()` does
(spec/40_execution_cycle.md R114). -/

namespace Sys2Proof.Machine

/-- A, X, Y and SP are as before. -/
def SameRegisters (s t : State) : Prop := t.a = s.a ∧ t.x = s.x ∧ t.y = s.y ∧ t.sp = s.sp

/-- The latches, the counters of the Scheduler, the trap observable and the session's parameters are as before. -/
def SameSession (s t : State) : Prop :=
  t.nmiPending = s.nmiPending ∧ t.irqPending = s.irqPending ∧ t.trap = s.trap ∧ t.cycles = s.cycles ∧
  t.periphCycles = s.periphCycles ∧ t.ready = s.ready ∧ t.params = s.params

/-- The DMA state is as before. -/
def SameDma (s t : State) : Prop :=
  t.dmaCount = s.dmaCount ∧ t.dmaPage = s.dmaPage ∧ t.dmaLow = s.dmaLow ∧ t.dmaLatch = s.dmaLatch

/-- Every byte of the backing store reads as before. -/
def SameMemory (s t : State) : Prop := ∀ i, t.mem.read i = s.mem.read i

/-- The peripheral was given nothing but register reads, one free value each. -/
def OnlyRegReads (s t : State) : Prop :=
  ∃ l : List PeriphEvent, t.events = l ++ s.events ∧ t.draws = s.draws + l.length ∧ ∀ e ∈ l, ∃ n, e.call = .regRead n

/-- Nothing outside A, X, Y, SP, P, PC and `rem` changed, but for register reads of the peripheral. -/
def NothingStored (s t : State) : Prop := SameSession s t ∧ SameDma s t ∧ SameMemory s t ∧ OnlyRegReads s t

/-- Every flag but U and those listed is as before, and U is 1 (spec/10_state.md R32). -/
def FlagsKept (written : List Flag) (p q : Byte) : Prop :=
  (∀ f, f ∉ written → f ≠ .u → getFlag f q = getFlag f p) ∧ getFlag .u q = true

/-- From `s` to `t` exactly one byte was written, `v` to `addr`, with the effect of the device there (spec/20_memory.md
R54-R58): a byte of the backing store, a peripheral register, the DMA trigger, or nothing. Registers and the session are not
spoken of. -/
def ByteWritten (addr : Addr) (v : Byte) (s t : State) : Prop :=
  (∀ i, t.mem.read i = if backing s addr = some i then v else s.mem.read i) ∧
  t.draws = s.draws ∧
  (match deviceAt s.params.map addr with
    | .dmaTrigger => t.dmaCount = 513 + s.cycles % 2 ∧ t.dmaPage = v ∧ t.dmaLow = 0 ∧ t.dmaLatch = s.dmaLatch
    | .ram _ | .fallback | .apu | .ppuReg _ => SameDma s t) ∧
  (match deviceAt s.params.map addr with
    | .ppuReg n => t.events = ⟨s.periphCycles, .regWrite n v⟩ :: s.events
    | .ram _ | .fallback | .apu | .dmaTrigger => t.events = s.events)

/-- From `s` to `t` the listed bytes were written, in order, and nothing else. -/
def BytesWritten : List (Addr × Byte) → State → State → Prop
  | [], s, t => SameMemory s t ∧ SameDma s t ∧ t.draws = s.draws ∧ t.events = s.events
  | (addr, v) :: rest, s, t => ∃ u, ByteWritten addr v s u ∧ SameSession s u ∧ BytesWritten rest u t

/-- N and Z are those of the byte `v` (spec/00_scope.md R10), every other flag is as before, U is 1. -/
def SetsNZ (v : Byte) (s t : State) : Prop :=
  getFlag .n t.p = bit7 v ∧ getFlag .z t.p = (v == 0) ∧ FlagsKept [.n, .z] s.p t.p

/-- The outcome of a conditional branch (spec/45_control_flow.md R200). -/
def BranchesIf (cond : Bool) (off : Byte) (s : State) (r : Host.Outcome State Fault Refusal) : Prop :=
  ∃ t, r = .next t ∧ t.pc = (if cond then s.pc + off.signExtend 16 else s.pc) ∧
    t.rem = (if cond then 2 + s.params.branchTakenExtra else 2) ∧
    SameRegisters s t ∧ FlagsKept [] s.p t.p ∧ NothingStored s t

/-- An instruction that only writes one flag, in 2 cycles (spec/46_stack_flags_nop.md R234-R240). -/
def WritesOneFlag (f : Flag) (on : Bool) (s : State) (r : Host.Outcome State Fault Refusal) : Prop :=
  ∃ t, r = .next t ∧ getFlag f t.p = on ∧ FlagsKept [f] s.p t.p ∧ t.rem = 2 ∧ t.pc = s.pc ∧ SameRegisters s t ∧
    NothingStored s t

/-- From `s` to `t` an interrupt was entered (spec/60_exceptions.md R342): PC high, PC low and the status with bit 4 equal to `b`
are pushed, PC is read from the vector after the pushes, I is set. -/
def EntersInterrupt (ret : Addr) (b : Bool) (vector : Addr) (s t : State) : Prop :=
  (∃ u, BytesWritten [(stackAddr s.sp, hiByte ret), (stackAddr (s.sp - 1), loByte ret),
      (stackAddr (s.sp - 2), pushedStatus b s.p)] s u ∧ SameSession s u ∧
    t.pc = (read16 vector u).1 ∧ SameMemory u t ∧ SameDma u t ∧ OnlyRegReads u t) ∧
  t.sp = s.sp - 3 ∧ t.a = s.a ∧ t.x = s.x ∧ t.y = s.y ∧
  getFlag .i t.p = true ∧ ∀ f, f ≠ .i → f ≠ .u → getFlag f t.p = getFlag f s.p

/-- The backing store in canonical form (spec/20_memory.md R53). -/
def MemoryCanonical (s : State) : Prop := s.mem.wf = true

/-- What holds of the state between any two host moves: the store is canonical, U is 1 (spec/10_state.md R32), the DMA countdown
is at most 514 (R39), and the DMA's low byte is the number of bytes it has delivered (spec/50_scheduler_dma.md R311). -/
def Inv (s : State) : Prop :=
  MemoryCanonical s ∧ getFlag .u s.p = true ∧ s.dmaCount ≤ 514 ∧ s.dmaLow.toNat = (512 - s.dmaCount) / 2 % 256

/-- A transfer armed by the Processor is aligned: its remaining ticks end on the parity that puts every read on an even tick
(spec/50_scheduler_dma.md R311). -/
def DmaAligned (s : State) : Prop := s.dmaCount ≠ 0 → (s.cycles + s.dmaCount) % 2 = 0

/-- The fixed ratio of peripheral steps to ticks (spec/50_scheduler_dma.md R305). -/
def RatioHolds (s : State) : Prop := s.periphCycles = s.params.periphRatio * s.cycles

/-- The next step is a boundary of the Processor at which no interrupt is dispatched, so it fetches and runs an instruction
(spec/40_execution_cycle.md R100, R101). -/
def InstructionNext (s : State) : Prop :=
  s.ready = true ∧ s.dmaCount = 0 ∧ s.rem ≤ 1 ∧ s.nmiPending = false ∧ (s.irqPending = false ∨ getFlag .i s.p = true)

/-- Every address from `addr` on, `n` of them, is backed by the store, so that fetching there is plain (spec/20_memory.md R54,
R58). -/
def PlainFrom (s : State) (addr : Addr) (n : Nat) : Prop :=
  ∀ k, k < n → (backing s (addr + BitVec.ofNat 16 k)).isSome = true

/-- The bytes behind `n` addresses from `addr` on, looked at without an access. -/
def bytesAt (s : State) (addr : Addr) (n : Nat) : List Byte :=
  (List.range n).map fun k => peek s (addr + BitVec.ofNat 16 k)

end Sys2Proof.Machine
end

