-- ==== Sys2Proof/Certificates/Slice0/Obligations.lean ====
section
/-! DEFINITION. The statements for the provers. Each docstring names the rules of spec/ it rests on. Terms such as
`NothingStored` and `ByteWritten` are those of Sys2Proof/Safety.lean. -/

open Sys2Proof Sys2Proof.Machine

/-! ### Encoding (30_encoding.md) -/

/-- Words written out from R85 decode to the instructions they stand for, one per family. -/
def Obligations.TableWordsDecode : Prop :=
  decodeTableWord 16 0x42A9 = some (.lda (.imm 0x42)) ∧
  decodeTableWord 24 0x1234BD = some (.lda (.mem (.abx 0x1234))) ∧
  decodeTableWord 16 0x40F1 = some (.sbc (.mem (.izy 0x40))) ∧
  decodeTableWord 16 0xFE76 = some (.ror (.mem (.zpx 0xFE))) ∧
  decodeTableWord 24 0x02FF6C = some (.jmp (.ind 0x02FF)) ∧
  decodeTableWord 16 0xFCD0 = some (.bne 0xFC) ∧
  decodeTableWord 8 0x28 = some .plp ∧
  decodeTableWord 24 0x12FFBF = some (.lax 0xBF (.mem (.aby 0x12FF)))

/-- R80-R82, R86, R87: decoding the encoding of a well-formed instruction gives it back, whatever follows it and whatever the
shapes of the unofficial opcodes. -/
def Obligations.DecodeOfEncode : Prop :=
  ∀ (unoff : List (Byte × Shape)) (i : Instr) (rest : List Byte),
    WellFormed (shapeOf unoff) i = true → decode unoff (encode i ++ rest) = .ok (i, rest)

/-- R80-R82, R85: no bit of a decoded instruction is dropped. -/
def Obligations.EncodeOfDecode : Prop :=
  ∀ (unoff : List (Byte × Shape)) (bytes rest : List Byte) (i : Instr),
    decode unoff bytes = .ok (i, rest) → encode i ++ rest = bytes

/-- R81, R84: every opcode byte selects an entry, its length is known from the first byte, and the entries of the 105 unofficial
bytes are the unofficial instructions. -/
def Obligations.EveryOpcodeDecodes : Prop :=
  ∀ (unoff : List (Byte × Shape)) (op b1 b2 : Byte) (rest : List Byte),
    ∃ i, decode unoff (op :: b1 :: b2 :: rest) = .ok (i, (b1 :: b2 :: rest).drop (operandCount unoff op)) ∧
      WellFormed (shapeOf unoff) i = true ∧ opcodeOf i = some op ∧ operandCount unoff op = operandBytes i.mode ∧
      (i.unofficial?.isSome = true ↔ (lookupShape nmosShapes op).isSome = true)

/-! ### The fetch and the tick (40_execution_cycle.md, 50_scheduler_dma.md) -/

/-- R25, R100-R104: a tick at a boundary with no interrupt runs the fetched instruction, then `trap` and the counters follow. The
fetch stores nothing, moves PC past the opcode and the operand bytes of the mode, and its instruction is the entry of the byte
read at PC, whatever device is there. -/
def Obligations.StepRunsFetchedInstruction : Prop :=
  ∀ s : State,
    (InstructionNext s →
      step s = onNext endTick (onNext (noteTrap s.pc) (exec (fetch { s with rem := 0 }).1 (fetch { s with rem := 0 }).2))) ∧
    opcodeOf (fetch s).1 = some (busRead s.pc s).1 ∧
    WellFormed (shapeOf s.params.unoffShape) (fetch s).1 = true ∧
    (fetch s).2.pc = s.pc + 1 + BitVec.ofNat 16 (operandBytes (fetch s).1.mode) ∧
    (fetch s).2.p = s.p ∧ (fetch s).2.rem = s.rem ∧ SameRegisters s (fetch s).2 ∧ NothingStored s (fetch s).2

/-- R100-R104: when the bytes of the store at PC decode to an instruction, the step is `exec` of it with PC past its bytes. -/
def Obligations.StepRunsDecodedInstruction : Prop :=
  ∀ (s : State) (n : Nat) (i : Instr), InstructionNext s → PlainFrom s s.pc n →
    decode s.params.unoffShape (bytesAt s s.pc n) = .ok (i, []) →
    step s = onNext endTick (onNext (noteTrap s.pc) (exec i { s with rem := 0, pc := s.pc + BitVec.ofNat 16 n }))

/-- R100, R111, R115, R349: while a budget of more than n is left and no DMA runs, n ticks only count it down; so a budget of N
puts the next boundary N `clock()` calls after the dispatch. -/
def Obligations.BudgetCountsDown : Prop :=
  ∀ (n : Nat) (s : State), s.ready = true → s.dmaCount = 0 → n < s.rem →
    ticks n s = .next { s with rem := s.rem - n, cycles := s.cycles + n,
                               periphCycles := s.periphCycles + n * s.params.periphRatio }

/-- R114, R340, R383: a step after `reset()` always answers a next state; a step before it is refused. -/
def Obligations.StepFaultsNever : Prop :=
  ∀ s : State, (s.ready = true → ∃ t, step s = .next t ∧ t.ready = true) ∧
    (s.ready = false → step s = .refused .tickBeforeReset)

/-- R105-R107, R340: every instruction answers a next state; U is 1 after it, and the latches, the counters, `trap`, the
parameters and `dma_latch` are not touched. -/
def Obligations.EveryInstructionCompletes : Prop :=
  ∀ (i : Instr) (s : State), ∃ t, exec i s = .next t ∧ getFlag .u t.p = true ∧ SameSession s t ∧ t.dmaLatch = s.dmaLatch

/-- R112: `trap` is true after a boundary that dispatched an instruction and left PC unchanged, and false after the others. That
it keeps its value between boundaries is the model's choice (log entry 12). -/
def Obligations.TrapObservesSelfLoop : Prop :=
  ∀ s t : State, step s = .next t → s.dmaCount = 0 →
    (InstructionNext s → t.trap = (t.pc == s.pc)) ∧
    (s.rem ≤ 1 → ¬ InstructionNext s → t.trap = false) ∧
    (1 < s.rem → t.trap = s.trap)

/-! ### Operands (41_addressing_modes.md) -/

/-- R125-R127, R391: the zero-page forms stay in page 0, whatever the index. -/
def Obligations.ZeroPageFormsWrap : Prop :=
  ∀ (z : Byte) (s : State),
    (hiByte (resolve (.zp z) s).ea = 0 ∧ loByte (resolve (.zp z) s).ea = z) ∧
    (hiByte (resolve (.zpx z) s).ea = 0 ∧ loByte (resolve (.zpx z) s).ea = z + s.x) ∧
    (hiByte (resolve (.zpy z) s).ea = 0 ∧ loByte (resolve (.zpy z) s).ea = z + s.y) ∧
    ∀ m ∈ [MemMode.zp z, .zpx z, .zpy z], (resolve m s).crossed = false ∧ (resolve m s).state = s

/-- R128-R130: the absolute forms; an index carries into the high byte and wraps at 0xFFFF; `crossed` compares the high bytes. -/
def Obligations.AbsoluteFormsCarry : Prop :=
  ∀ (a : Addr) (s : State),
    resolve (.abs a) s = ⟨a, false, s⟩ ∧
    (resolve (.abx a) s).ea.toNat = (a.toNat + s.x.toNat) % 65536 ∧
    (resolve (.aby a) s).ea.toNat = (a.toNat + s.y.toNat) % 65536 ∧
    ∀ m ∈ [MemMode.abx a, .aby a], (resolve m s).state = s ∧
      ((resolve m s).crossed = true ↔ a.toNat / 256 ≠ (resolve m s).ea.toNat / 256)

/-- R132, R133: the pointer of (zp,X) and (zp),Y is read low byte first from page 0, both bytes wrapping there; only the second
indexes what was read, and only it can cross a page. Here for a plain page 0; R62 for any. -/
def Obligations.PointerFormsWrap : Prop :=
  ∀ (z : Byte) (s : State),
    (∀ i j, backing s (zeroPage (z + s.x)) = some i → backing s (zeroPage (z + s.x + 1)) = some j →
      resolve (.izx z) s = ⟨word (s.mem.read j) (s.mem.read i), false, s⟩) ∧
    (∀ i j, backing s (zeroPage z) = some i → backing s (zeroPage (z + 1)) = some j →
      (resolve (.izy z) s).state = s ∧
      (resolve (.izy z) s).ea.toNat = ((word (s.mem.read j) (s.mem.read i)).toNat + s.y.toNat) % 65536 ∧
      ((resolve (.izy z) s).crossed = true ↔ s.mem.read j ≠ hiByte (resolve (.izy z) s).ea)) ∧
    (resolve (.izx z) s).crossed = false

/-- R54-R58, R124, R135: what `Operand()` gives, by the device at the effective address. The byte a peripheral register gives is a
free value, and the record of the read is the model's own (log entries 6 and 7). -/
def Obligations.OperandReadsDevice : Prop :=
  ∀ (m : MemMode) (s : State),
    (∀ v, loadOperand (.imm v) s = ⟨v, false, s⟩) ∧
    (loadOperand (.mem m) s).crossed = (resolve m s).crossed ∧
    (∀ i, backing s (resolve m s).ea = some i →
      (loadOperand (.mem m) s).value = s.mem.read i ∧ (loadOperand (.mem m) s).state = (resolve m s).state) ∧
    (deviceAt s.params.map (resolve m s).ea = .apu ∨ deviceAt s.params.map (resolve m s).ea = .dmaTrigger →
      (loadOperand (.mem m) s).value = 0 ∧ (loadOperand (.mem m) s).state = (resolve m s).state) ∧
    (∀ n, deviceAt s.params.map (resolve m s).ea = .ppuReg n →
      (loadOperand (.mem m) s).value = Config.periphRead (resolve m s).state.draws ∧
      (loadOperand (.mem m) s).state.events = ⟨s.periphCycles, .regRead n⟩ :: (resolve m s).state.events)

/-- R395: the base cycles of each form. -/
def Obligations.CycleTable : Prop :=
  ∀ (v z : Byte) (a : Addr),
    ([.imm v, .mem (.zp z), .mem (.zpx z), .mem (.zpy z), .mem (.abs a), .mem (.abx a), .mem (.aby a), .mem (.izx z),
      .mem (.izy z)] : List ReadOperand).map readCycles = [2, 3, 4, 4, 4, 4, 4, 6, 5] ∧
    ([.zp z, .zpx z, .zpy z, .abs a, .abx a, .aby a, .izx z, .izy z] : List MemMode).map storeCycles =
      [3, 4, 4, 4, 5, 5, 6, 6] ∧
    ([.acc, .mem (.zp z), .mem (.zpx z), .mem (.abs a), .mem (.abx a)] : List RmwOperand).map rmwCycles = [2, 5, 6, 6, 7]

/-! ### Load, store, transfer (42_load_store_transfer.md) -/

/-- R140-R142: LDA, LDX and LDY. -/
def Obligations.LoadsWriteRegister : Prop :=
  ∀ (o : ReadOperand) (s : State),
    let r := loadOperand o s
    let cost := readCycles o + if r.crossed then 1 else 0
    (∃ t, exec (.lda o) s = .next t ∧ t.a = r.value ∧ t.x = s.x ∧ t.y = s.y ∧ t.sp = s.sp ∧ t.pc = s.pc ∧
      SetsNZ r.value s t ∧ t.rem = cost ∧ NothingStored s t) ∧
    (∃ t, exec (.ldx o) s = .next t ∧ t.x = r.value ∧ t.a = s.a ∧ t.y = s.y ∧ t.sp = s.sp ∧ t.pc = s.pc ∧
      SetsNZ r.value s t ∧ t.rem = cost ∧ NothingStored s t) ∧
    (∃ t, exec (.ldy o) s = .next t ∧ t.y = r.value ∧ t.a = s.a ∧ t.x = s.x ∧ t.sp = s.sp ∧ t.pc = s.pc ∧
      SetsNZ r.value s t ∧ t.rem = cost ∧ NothingStored s t)

/-- R143-R145: STA, STX and STY write their register's byte to the effective address, and nothing else. -/
def Obligations.StoresWriteOneByte : Prop :=
  ∀ (m : MemMode) (s : State),
    let r := resolve m s
    let cost := storeCycles m + if r.crossed && s.params.penaltyOnWrites then 1 else 0
    NothingStored s r.state ∧
    ∀ c ∈ [(Instr.sta m, s.a), (.stx m, s.x), (.sty m, s.y)],
      ∃ t, exec c.1 s = .next t ∧ ByteWritten r.ea c.2 r.state t ∧ SameSession s t ∧ SameRegisters s t ∧ t.pc = s.pc ∧
        FlagsKept [] s.p t.p ∧ t.rem = cost

/-- R146-R151: the transfers, with their encodings. TXS writes no flag. -/
def Obligations.TransfersCopyRegister : Prop :=
  [Instr.tax, .tay, .txa, .tya, .tsx, .txs].map encode = [[0xAA], [0xA8], [0x8A], [0x98], [0xBA], [0x9A]] ∧
  ∀ s : State,
    (∃ t, exec .tax s = .next t ∧ t.x = s.a ∧ t.a = s.a ∧ t.y = s.y ∧ t.sp = s.sp ∧ t.pc = s.pc ∧ SetsNZ s.a s t ∧
      t.rem = 2 ∧ NothingStored s t) ∧
    (∃ t, exec .tay s = .next t ∧ t.y = s.a ∧ t.a = s.a ∧ t.x = s.x ∧ t.sp = s.sp ∧ t.pc = s.pc ∧ SetsNZ s.a s t ∧
      t.rem = 2 ∧ NothingStored s t) ∧
    (∃ t, exec .txa s = .next t ∧ t.a = s.x ∧ t.x = s.x ∧ t.y = s.y ∧ t.sp = s.sp ∧ t.pc = s.pc ∧ SetsNZ s.x s t ∧
      t.rem = 2 ∧ NothingStored s t) ∧
    (∃ t, exec .tya s = .next t ∧ t.a = s.y ∧ t.x = s.x ∧ t.y = s.y ∧ t.sp = s.sp ∧ t.pc = s.pc ∧ SetsNZ s.y s t ∧
      t.rem = 2 ∧ NothingStored s t) ∧
    (∃ t, exec .tsx s = .next t ∧ t.x = s.sp ∧ t.a = s.a ∧ t.y = s.y ∧ t.sp = s.sp ∧ t.pc = s.pc ∧ SetsNZ s.sp s t ∧
      t.rem = 2 ∧ NothingStored s t) ∧
    (∃ t, exec .txs s = .next t ∧ t.sp = s.x ∧ t.a = s.a ∧ t.x = s.x ∧ t.y = s.y ∧ t.pc = s.pc ∧ FlagsKept [] s.p t.p ∧
      t.rem = 2 ∧ NothingStored s t)

/-! ### Arithmetic, logic, compare (43_arithmetic_logic.md) -/

/-- R160, R162: ADC is the exact sum, reduced; C is its carry; V is set exactly when A and the operand have one sign and the
result has the other. -/
def Obligations.AdcAddsWithCarry : Prop :=
  ∀ (o : ReadOperand) (s : State),
    let r := loadOperand o s
    let sum := s.a.toNat + r.value.toNat + (getFlag .c s.p).toNat
    ∃ t, exec (.adc o) s = .next t ∧ t.a.toNat = sum % 256 ∧ getFlag .c t.p = decide (255 < sum) ∧
      getFlag .v t.p = (bit7 s.a == bit7 r.value && bit7 t.a != bit7 s.a) ∧
      getFlag .n t.p = bit7 t.a ∧ getFlag .z t.p = (t.a == 0) ∧ FlagsKept [.n, .v, .z, .c] s.p t.p ∧
      t.x = s.x ∧ t.y = s.y ∧ t.sp = s.sp ∧ t.pc = s.pc ∧ t.rem = (readCycles o + if r.crossed then 1 else 0) ∧
      NothingStored s t

/-- R160, R163: SBC is A - M - (1 - C) modulo 256; C afterwards is "no borrow"; V uses the complement of M. -/
def Obligations.SbcSubtractsWithBorrow : Prop :=
  ∀ (o : ReadOperand) (s : State),
    let r := loadOperand o s
    let borrow : Nat := if getFlag .c s.p then 0 else 1
    ∃ t, exec (.sbc o) s = .next t ∧ t.a = s.a - r.value - BitVec.ofNat 8 borrow ∧
      getFlag .c t.p = decide (r.value.toNat + borrow ≤ s.a.toNat) ∧
      getFlag .v t.p = (bit7 s.a != bit7 r.value && bit7 t.a != bit7 s.a) ∧
      getFlag .n t.p = bit7 t.a ∧ getFlag .z t.p = (t.a == 0) ∧ FlagsKept [.n, .v, .z, .c] s.p t.p ∧
      t.x = s.x ∧ t.y = s.y ∧ t.sp = s.sp ∧ t.pc = s.pc ∧ t.rem = (readCycles o + if r.crossed then 1 else 0) ∧
      NothingStored s t

/-- R161: the decimal flag changes nothing in ADC and SBC but is carried along. -/
def Obligations.DecimalFlagIgnored : Prop :=
  ∀ (o : ReadOperand) (on : Bool) (s : State), ∀ i ∈ [Instr.adc o, .sbc o],
    exec i { s with p := setFlag .d on s.p } = onNext (fun t => { t with p := setFlag .d on t.p }) (exec i s)

/-- R164-R166: AND, ORA and EOR. -/
def Obligations.LogicOperations : Prop :=
  ∀ (o : ReadOperand) (s : State),
    let r := loadOperand o s
    ∀ c ∈ [(Instr.and o, s.a &&& r.value), (.ora o, s.a ||| r.value), (.eor o, s.a ^^^ r.value)],
      ∃ t, exec c.1 s = .next t ∧ t.a = c.2 ∧ SetsNZ c.2 s t ∧ t.x = s.x ∧ t.y = s.y ∧ t.sp = s.sp ∧ t.pc = s.pc ∧
        t.rem = (readCycles o + if r.crossed then 1 else 0) ∧ NothingStored s t

/-- R167: BIT takes N and V from the memory byte and Z from its conjunction with A; A is unchanged. ZP is 0x24 and takes 3
cycles, ABS is 0x2C and takes 4. -/
def Obligations.BitTestsMemory : Prop :=
  (∀ (z : Byte) (a : Addr), encode (.bit (.zp z)) = [0x24, z] ∧ encode (.bit (.abs a)) = [0x2C, loByte a, hiByte a]) ∧
  ∀ (m : MemMode) (s : State),
    let r := loadMem m s
    ∃ t, exec (.bit m) s = .next t ∧ getFlag .z t.p = (s.a &&& r.value == 0) ∧ getFlag .n t.p = bit7 r.value ∧
      getFlag .v t.p = bit6 r.value ∧ FlagsKept [.n, .v, .z] s.p t.p ∧ SameRegisters s t ∧ t.pc = s.pc ∧
      t.rem = (readCycles (.mem m) + if r.crossed then 1 else 0) ∧ NothingStored s t

/-- R168-R171: the compares are unsigned; V and the registers are unchanged. -/
def Obligations.ComparesAreUnsigned : Prop :=
  ∀ (o : ReadOperand) (s : State),
    let r := loadOperand o s
    ∀ c ∈ [(Instr.cmp o, s.a), (.cpx o, s.x), (.cpy o, s.y)],
      ∃ t, exec c.1 s = .next t ∧ getFlag .c t.p = decide (r.value.toNat ≤ c.2.toNat) ∧
        getFlag .z t.p = decide (c.2 = r.value) ∧ getFlag .n t.p = bit7 (c.2 - r.value) ∧
        FlagsKept [.n, .z, .c] s.p t.p ∧ SameRegisters s t ∧ t.pc = s.pc ∧
        t.rem = (readCycles o + if r.crossed then 1 else 0) ∧ NothingStored s t

/-! ### Shift, rotate, increment, decrement (44_shift_incdec.md) -/

/-- R180-R183 in accumulator mode: the carry takes the bit shifted out, and a rotate takes the old carry in. -/
def Obligations.ShiftsOfAccumulator : Prop :=
  ∀ s : State,
    let c := (getFlag .c s.p).toNat
    ∀ k ∈ [(Instr.asl .acc, 2 * s.a.toNat % 256, bit7 s.a), (.lsr .acc, s.a.toNat / 2, bit0 s.a),
        (.rol .acc, (2 * s.a.toNat + c) % 256, bit7 s.a), (.ror .acc, s.a.toNat / 2 + 128 * c, bit0 s.a)],
      ∃ t, exec k.1 s = .next t ∧ t.a.toNat = k.2.1 ∧ getFlag .c t.p = k.2.2 ∧ getFlag .n t.p = bit7 t.a ∧
        getFlag .z t.p = (t.a == 0) ∧ FlagsKept [.n, .z, .c] s.p t.p ∧ t.x = s.x ∧ t.y = s.y ∧ t.sp = s.sp ∧
        t.pc = s.pc ∧ t.rem = 2 ∧ NothingStored s t

/-- R180-R183, R190 on memory: one read of the effective address, one write of the result there. -/
def Obligations.ShiftsOfMemory : Prop :=
  ∀ (m : MemMode) (s : State),
    let r := loadMem m s
    let v := r.value
    let c := (getFlag .c s.p).toNat
    NothingStored s r.state ∧
    ∀ k ∈ [(Instr.asl (.mem m), 2 * v.toNat % 256, bit7 v), (.lsr (.mem m), v.toNat / 2, bit0 v),
        (.rol (.mem m), (2 * v.toNat + c) % 256, bit7 v), (.ror (.mem m), v.toNat / 2 + 128 * c, bit0 v)],
      ∃ t res, exec k.1 s = .next t ∧ res.toNat = k.2.1 ∧ ByteWritten (resolve m s).ea res r.state t ∧ SameSession s t ∧
        getFlag .c t.p = k.2.2 ∧ getFlag .n t.p = bit7 res ∧ getFlag .z t.p = (res == 0) ∧
        FlagsKept [.n, .z, .c] s.p t.p ∧ SameRegisters s t ∧ t.pc = s.pc ∧
        t.rem = (rmwCycles (.mem m) + if r.crossed && s.params.penaltyOnWrites then 1 else 0)

/-- R184, R185, R190: INC and DEC of memory; C is not affected. -/
def Obligations.IncDecOfMemory : Prop :=
  ∀ (m : MemMode) (s : State),
    let r := loadMem m s
    NothingStored s r.state ∧
    ∀ k ∈ [(Instr.inc m, r.value + 1), (.dec m, r.value - 1)],
      ∃ t, exec k.1 s = .next t ∧ ByteWritten (resolve m s).ea k.2 r.state t ∧ SameSession s t ∧ SetsNZ k.2 s t ∧
        SameRegisters s t ∧ t.pc = s.pc ∧
        t.rem = (rmwCycles (.mem m) + if r.crossed && s.params.penaltyOnWrites then 1 else 0)

/-- R186-R189: INX, INY, DEX and DEY, with their encodings. -/
def Obligations.IncDecOfIndex : Prop :=
  [Instr.inx, .iny, .dex, .dey].map encode = [[0xE8], [0xC8], [0xCA], [0x88]] ∧
  ∀ s : State,
    (∀ k ∈ [(Instr.inx, s.x + 1), (.dex, s.x - 1)],
      ∃ t, exec k.1 s = .next t ∧ t.x = k.2 ∧ SetsNZ k.2 s t ∧ t.a = s.a ∧ t.y = s.y ∧ t.sp = s.sp ∧ t.pc = s.pc ∧
        t.rem = 2 ∧ NothingStored s t) ∧
    (∀ k ∈ [(Instr.iny, s.y + 1), (.dey, s.y - 1)],
      ∃ t, exec k.1 s = .next t ∧ t.y = k.2 ∧ SetsNZ k.2 s t ∧ t.a = s.a ∧ t.x = s.x ∧ t.sp = s.sp ∧ t.pc = s.pc ∧
        t.rem = 2 ∧ NothingStored s t)

/-! ### Control transfer (45_control_flow.md) -/

/-- R134, R200-R208: each branch, its encoding, its condition, its target from the next instruction's address, and its cost
with no page cycle. -/
def Obligations.BranchesFollowTheirFlag : Prop :=
  ∀ (off : Byte) (s : State),
    [Instr.bpl off, .bmi off, .bvc off, .bvs off, .bcc off, .bcs off, .bne off, .beq off].map encode =
      [[0x10, off], [0x30, off], [0x50, off], [0x70, off], [0x90, off], [0xB0, off], [0xD0, off], [0xF0, off]] ∧
    BranchesIf (!getFlag .n s.p) off s (exec (.bpl off) s) ∧ BranchesIf (getFlag .n s.p) off s (exec (.bmi off) s) ∧
    BranchesIf (!getFlag .v s.p) off s (exec (.bvc off) s) ∧ BranchesIf (getFlag .v s.p) off s (exec (.bvs off) s) ∧
    BranchesIf (!getFlag .c s.p) off s (exec (.bcc off) s) ∧ BranchesIf (getFlag .c s.p) off s (exec (.bcs off) s) ∧
    BranchesIf (!getFlag .z s.p) off s (exec (.bne off) s) ∧ BranchesIf (getFlag .z s.p) off s (exec (.beq off) s)

/-- R128, R131, R209, R390: JMP absolute and indirect; the pointer's high byte comes from the same page. -/
def Obligations.JumpTargets : Prop :=
  ∀ (a : Addr) (s : State),
    encode (.jmp (.abs a)) = [0x4C, loByte a, hiByte a] ∧ encode (.jmp (.ind a)) = [0x6C, loByte a, hiByte a] ∧
    (∃ t, exec (.jmp (.abs a)) s = .next t ∧ t.pc = a ∧ t.rem = 3 ∧ SameRegisters s t ∧ FlagsKept [] s.p t.p ∧
      NothingStored s t) ∧
    (∃ t, exec (.jmp (.ind a)) s = .next t ∧
      t.pc = (readPair a (word (hiByte a) (loByte a + 1)) s).1 ∧
      (∀ i j, backing s a = some i → backing s (word (hiByte a) (loByte a + 1)) = some j →
        t.pc = word (s.mem.read j) (s.mem.read i)) ∧
      t.rem = 5 ∧ SameRegisters s t ∧ FlagsKept [] s.p t.p ∧ NothingStored s t)

/-- R210: JSR pushes the address of its own last byte, high byte first. -/
def Obligations.JsrPushesReturn : Prop :=
  ∀ (a : Addr) (s : State), encode (.jsr a) = [0x20, loByte a, hiByte a] ∧
    ∃ t, exec (.jsr a) s = .next t ∧ t.pc = a ∧ t.sp = s.sp - 2 ∧
      BytesWritten [(stackAddr s.sp, hiByte (s.pc - 1)), (stackAddr (s.sp - 1), loByte (s.pc - 1))] s t ∧
      t.a = s.a ∧ t.x = s.x ∧ t.y = s.y ∧ FlagsKept [] s.p t.p ∧ t.rem = 6 ∧ SameSession s t

/-- R211: RTS pulls low then high and adds 1. -/
def Obligations.RtsPullsReturn : Prop :=
  encode .rts = [0x60] ∧
  ∀ s : State, ∃ t, exec .rts s = .next t ∧ t.pc = (pullWord s).1 + 1 ∧
    (∀ i j, backing s (stackAddr (s.sp + 1)) = some i → backing s (stackAddr (s.sp + 2)) = some j →
      t.pc = word (s.mem.read j) (s.mem.read i) + 1) ∧
    t.sp = s.sp + 2 ∧ t.a = s.a ∧ t.x = s.x ∧ t.y = s.y ∧ FlagsKept [] s.p t.p ∧ t.rem = 6 ∧ NothingStored s t

/-- R210, R211: RTS after JSR returns past the JSR with SP as it was, when the two stack bytes are two plain bytes. -/
def Obligations.RtsUndoesJsr : Prop :=
  ∀ (a : Addr) (s t u : State) (i j : Nat), backing s (stackAddr s.sp) = some i →
    backing s (stackAddr (s.sp - 1)) = some j → i ≠ j → exec (.jsr a) s = .next t → exec .rts t = .next u →
    u.pc = s.pc ∧ u.sp = s.sp

/-- R212, R351: RTI pulls the whole status (U is forced to 1), then PC low, then PC high, with no adjustment. -/
def Obligations.RtiRestores : Prop :=
  encode .rti = [0x40] ∧
  ∀ s : State, ∃ t, exec .rti s = .next t ∧
    (∀ i j k, backing s (stackAddr (s.sp + 1)) = some i → backing s (stackAddr (s.sp + 2)) = some j →
      backing s (stackAddr (s.sp + 3)) = some k →
      t.pc = word (s.mem.read k) (s.mem.read j) ∧ ∀ f, f ≠ .u → getFlag f t.p = getFlag f (s.mem.read i)) ∧
    (∀ f, f ≠ .u → getFlag f t.p = getFlag f (pull s).1) ∧ t.pc = (pullWord (pull s).2).1 ∧
    getFlag .u t.p = true ∧ t.sp = s.sp + 3 ∧ t.a = s.a ∧ t.x = s.x ∧ t.y = s.y ∧ t.rem = 6 ∧ NothingStored s t

/-- R213, R342: BRK enters through 0xFFFE with B set in the pushed status and its own address + 2 pushed; it is not gated by I;
D is not cleared. -/
def Obligations.BrkEntersInterrupt : Prop :=
  encode .brk = [0x00] ∧
  ∀ s : State, ∃ t, exec .brk s = .next t ∧ EntersInterrupt (s.pc + 1) true 0xFFFE s t ∧ getFlag .u t.p = true ∧
    t.rem = 7 ∧ SameSession s t

/-! ### Stack, flags, no-operation (46_stack_flags_nop.md) -/

/-- R230, R231, R74: PHA and PHP push one byte in page 1; PHP's copy has B and U set and P itself is unchanged. -/
def Obligations.PushesWriteStack : Prop :=
  encode .pha = [0x48] ∧ encode .php = [0x08] ∧
  ∀ s : State, ∀ c ∈ [(Instr.pha, s.a), (.php, s.p ||| 0x30)],
    ∃ t, exec c.1 s = .next t ∧ ByteWritten (word 0x01 s.sp) c.2 s t ∧ t.sp = s.sp - 1 ∧ t.a = s.a ∧ t.x = s.x ∧
      t.y = s.y ∧ t.pc = s.pc ∧ FlagsKept [] s.p t.p ∧ t.rem = 3 ∧ SameSession s t

/-- R232, R233, R74: PLA and PLP pull one byte from page 1. -/
def Obligations.PullsReadStack : Prop :=
  encode .pla = [0x68] ∧ encode .plp = [0x28] ∧
  ∀ s : State,
    (∀ i, backing s (word 0x01 (s.sp + 1)) = some i → (pull s).1 = s.mem.read i) ∧
    (∃ t, exec .pla s = .next t ∧ t.a = (pull s).1 ∧ SetsNZ (pull s).1 s t ∧ t.sp = s.sp + 1 ∧ t.x = s.x ∧ t.y = s.y ∧
      t.pc = s.pc ∧ t.rem = 4 ∧ NothingStored s t) ∧
    (∃ t, exec .plp s = .next t ∧ (∀ f, f ≠ .u → getFlag f t.p = getFlag f (pull s).1) ∧ getFlag .u t.p = true ∧
      t.sp = s.sp + 1 ∧ t.a = s.a ∧ t.x = s.x ∧ t.y = s.y ∧ t.pc = s.pc ∧ t.rem = 4 ∧ NothingStored s t)

/-- R234-R241: each flag instruction writes its flag and nothing else; NOP writes none. -/
def Obligations.FlagInstructions : Prop :=
  [Instr.clc, .sec, .cli, .sei, .cld, .sed, .clv, .nop].map encode =
    [[0x18], [0x38], [0x58], [0x78], [0xD8], [0xF8], [0xB8], [0xEA]] ∧
  ∀ s : State,
    WritesOneFlag .c false s (exec .clc s) ∧ WritesOneFlag .c true s (exec .sec s) ∧
    WritesOneFlag .i false s (exec .cli s) ∧ WritesOneFlag .i true s (exec .sei s) ∧
    WritesOneFlag .d false s (exec .cld s) ∧ WritesOneFlag .d true s (exec .sed s) ∧
    WritesOneFlag .v false s (exec .clv s) ∧
    ∃ t, exec .nop s = .next t ∧ FlagsKept [] s.p t.p ∧ t.rem = 2 ∧ t.pc = s.pc ∧ SameRegisters s t ∧ NothingStored s t

/-! ### Unofficial opcodes (47_unofficial.md) -/

/-- R250-R272: KIL, SLO, RLA, SRE, RRA, SAX, LAX, DCP, ISC, ANC, ALR, ARR, XAA, LXA, AXS, USBC, AHX, SHY, SHX, TAS, LAS and the
unofficial NOPs change nothing but `rem`; the peripheral sees no more than the pointer reads of IZX, IZY and IND. -/
def Obligations.UnofficialOpcodesInert : Prop :=
  ∀ (op : Byte) (o : Operand) (s : State),
    let shape := shapeOf s.params.unoffShape op
    ∀ i ∈ [Instr.kil op o, .slo op o, .rla op o, .sre op o, .rra op o, .sax op o, .lax op o, .dcp op o, .isc op o,
        .anc op o, .alr op o, .arr op o, .xaa op o, .lxa op o, .axs op o, .usbc op o, .ahx op o, .shy op o, .shx op o,
        .tas op o, .las op o, .nopUnofficial op o],
      ∃ t, exec i s = .next t ∧ SameRegisters s t ∧ t.pc = s.pc ∧ FlagsKept [] s.p t.p ∧ NothingStored s t ∧
        t.rem = (shape.cycles +
          if (resolveOnly o s).1 && (shape.pagePenalty || s.params.penaltyOnWrites) then 1 else 0) ∧
        (o.mode ∉ [Mode.izx, .izy, .ind] → t.events = s.events ∧ t.draws = s.draws)

/-! ### What only some instructions write (10_state.md) -/

/-- R21-R24: the writers of A, X, Y and SP. -/
def Obligations.RegisterWriters : Prop :=
  ∀ (i : Instr) (s t : State), exec i s = .next t →
    (t.a ≠ s.a → (∃ o, i ∈ [Instr.lda o, .adc o, .sbc o, .and o, .ora o, .eor o]) ∨
      i ∈ [Instr.txa, .tya, .pla, .asl .acc, .lsr .acc, .rol .acc, .ror .acc]) ∧
    (t.x ≠ s.x → (∃ o, i = .ldx o) ∨ i ∈ [Instr.tax, .tsx, .inx, .dex]) ∧
    (t.y ≠ s.y → (∃ o, i = .ldy o) ∨ i ∈ [Instr.tay, .iny, .dey]) ∧
    (t.sp ≠ s.sp → (∃ a, i = .jsr a) ∨ i ∈ [Instr.txs, .pha, .php, .pla, .plp, .rts, .rti, .brk])

/-- R29-R31: the writers of I, D and B. -/
def Obligations.ControlFlagWriters : Prop :=
  ∀ (i : Instr) (s t : State), exec i s = .next t →
    (getFlag .i t.p ≠ getFlag .i s.p → i ∈ [Instr.sei, .cli, .plp, .rti, .brk]) ∧
    (getFlag .d t.p ≠ getFlag .d s.p → i ∈ [Instr.sed, .cld, .plp, .rti]) ∧
    (getFlag .b t.p ≠ getFlag .b s.p → i ∈ [Instr.plp, .rti])

/-- R66, R143-R145, R190, R210, R213, R230, R231: only the stores, the memory read-modify-writes and the pushes write to the
address space. -/
def Obligations.OnlyStoresStore : Prop :=
  ∀ (i : Instr) (s t : State), exec i s = .next t →
    (∀ m, i ∉ [Instr.sta m, .stx m, .sty m, .asl (.mem m), .lsr (.mem m), .rol (.mem m), .ror (.mem m), .inc m, .dec m]) →
    (∀ a, i ≠ .jsr a) → i ∉ [Instr.brk, .pha, .php] → NothingStored s t

/-! ### Interrupts (60_exceptions.md) -/

/-- R343, R344, R345, R349: at a boundary the NMI comes first, whatever I is, and an IRQ only with I clear; each clears its own
latch, costs `INT_CYCLES` and is no trap. -/
def Obligations.InterruptsDispatch : Prop :=
  ∀ s : State, s.ready = true → s.dmaCount = 0 → s.rem ≤ 1 →
    (s.nmiPending = true → ∃ t, step s = .next t ∧ EntersInterrupt s.pc false 0xFFFA s t ∧
      t.nmiPending = false ∧ t.irqPending = s.irqPending ∧ getFlag .u t.p = getFlag .u s.p ∧ t.rem = s.params.intCycles ∧
      t.trap = false ∧ t.cycles = s.cycles + 1) ∧
    (s.nmiPending = false → s.irqPending = true → getFlag .i s.p = false →
      ∃ t, step s = .next t ∧ EntersInterrupt s.pc false 0xFFFE s t ∧
      t.nmiPending = false ∧ t.irqPending = false ∧ getFlag .u t.p = getFlag .u s.p ∧ t.rem = s.params.intCycles ∧
      t.trap = false ∧ t.cycles = s.cycles + 1)

/-- R347, R348, R313: a step clears the NMI latch exactly at a boundary of a running Processor, and the IRQ latch exactly at
such a boundary with no NMI and I clear; nothing else changes a latch. -/
def Obligations.LatchesClearOnlyWhenServiced : Prop :=
  ∀ s t : State, step s = .next t →
    let boundary := decide (s.dmaCount = 0 ∧ s.rem ≤ 1)
    t.nmiPending = (s.nmiPending && !boundary) ∧
    t.irqPending = (s.irqPending && !(boundary && !s.nmiPending && !getFlag .i s.p))

/-- R351: RTI after an NMI or IRQ entry restores PC, SP and every flag the interrupted code could see, when the three stack bytes
are three plain bytes. -/
def Obligations.RtiUndoesInterrupt : Prop :=
  ∀ (s u : State) (vector : Addr) (i j k : Nat), backing s (stackAddr s.sp) = some i →
    backing s (stackAddr (s.sp - 1)) = some j → backing s (stackAddr (s.sp - 2)) = some k → i ≠ j → i ≠ k → j ≠ k →
    exec .rti (interruptSequence s.pc false vector s) = .next u →
    u.pc = s.pc ∧ u.sp = s.sp ∧ ∀ f, f ≠ .b → f ≠ .u → getFlag f u.p = getFlag f s.p

/-! ### DMA and Scheduler (50_scheduler_dma.md) -/

/-- R57, R306, R318: a write to the DMA trigger, by the Processor or the host, arms the transfer anew; nothing reaches the store. -/
def Obligations.TriggerWriteArmsDma : Prop :=
  ∀ (addr : Addr) (v : Byte) (s : State), deviceAt s.params.map addr = .dmaTrigger →
    busWrite addr v s = { s with dmaCount := if s.cycles % 2 = 0 then 513 else 514, dmaPage := v, dmaLow := 0 } ∧
    (busRead addr s) = (0, s)

/-- R302, R308-R310, R312: a DMA tick decrements the count; the decremented count decides between a dummy, a read into the latch
and a write of the latch to the peripheral; the Processor and the store are not touched. -/
def Obligations.DmaTick : Prop :=
  ∀ s : State, s.ready = true → s.dmaCount ≠ 0 → ∃ t, step s = .next t ∧
    t.dmaCount = s.dmaCount - 1 ∧ t.dmaPage = s.dmaPage ∧ SameRegisters s t ∧ t.p = s.p ∧ t.pc = s.pc ∧ t.rem = s.rem ∧
    t.nmiPending = s.nmiPending ∧ t.irqPending = s.irqPending ∧ SameMemory s t ∧ t.cycles = s.cycles + 1 ∧
    (512 ≤ t.dmaCount → t.dmaLow = s.dmaLow ∧ t.dmaLatch = s.dmaLatch ∧ t.events = s.events ∧ t.draws = s.draws) ∧
    (t.dmaCount < 512 → t.dmaCount % 2 = 1 → t.dmaLow = s.dmaLow ∧
      t.dmaLatch = (busRead (word s.dmaPage s.dmaLow) s).1 ∧
      t.events = (busRead (word s.dmaPage s.dmaLow) s).2.events) ∧
    (t.dmaCount < 512 → t.dmaCount % 2 = 0 → t.dmaLow = s.dmaLow + 1 ∧ t.dmaLatch = s.dmaLatch ∧
      t.events = ⟨s.periphCycles, .oamWrite s.dmaLatch⟩ :: s.events ∧ t.draws = s.draws)

/-- R311: a freshly armed transfer delivers the 256 bytes of its page, in order, in `dma_count` ticks, and ends dormant. Here for a
page of the store; the Processor is as it was. -/
def Obligations.DmaDeliversPage : Prop :=
  ∀ s : State, s.ready = true → s.dmaCount = 513 ∨ s.dmaCount = 514 → s.dmaLow = 0 →
    PlainFrom s (word s.dmaPage 0) 256 →
    ∃ t, ticks s.dmaCount s = .next t ∧ t.dmaCount = 0 ∧ t.dmaLow = 0 ∧
      t.events.map PeriphEvent.call =
        ((bytesAt s (word s.dmaPage 0) 256).map PeriphCall.oamWrite).reverse ++ s.events.map PeriphEvent.call ∧
      t.cycles = s.cycles + s.dmaCount ∧ SameMemory s t ∧ SameRegisters s t ∧ t.p = s.p ∧ t.pc = s.pc ∧ t.rem = s.rem

/-- R311: a transfer armed by the Processor reads on even ticks only: every step keeps the alignment that says so. -/
def Obligations.DmaReadsOnEvenTicks : Prop :=
  (∀ s t : State, DmaAligned s → step s = .next t → DmaAligned t) ∧
  ∀ s : State, DmaAligned s → s.dmaCount ≠ 0 → s.dmaCount - 1 < 512 → (s.dmaCount - 1) % 2 = 1 → s.cycles % 2 = 0

/-- R301, R303-R305: T ticks add T to `cycles` and `PERIPH_RATIO * T` to `periph_cycles`, so the fixed ratio is kept. -/
def Obligations.TicksKeepRatio : Prop :=
  ∀ (n : Nat) (s t : State), ticks n s = .next t →
    t.cycles = s.cycles + n ∧ t.periphCycles = s.periphCycles + n * s.params.periphRatio ∧ (RatioHolds s → RatioHolds t)

/-! ### Memory and the map (20_memory.md) -/

/-- R54, R58, R68: a read gives the most recent byte written to the same index of the store, and a write leaves every other
index alone. -/
def Obligations.ReadAfterWrite : Prop :=
  ∀ (s : State) (a b : Addr) (v : Byte) (i j : Nat), backing s a = some i → backing s b = some j →
    (busRead b (busWrite a v s)).1 = if j = i then v else s.mem.read j

/-- R59, R60: `FLAT` is `Fallback` everywhere, and `NES` decodes as its table says. -/
def Obligations.MapsDecode : Prop :=
  ∀ a : Addr, deviceAt flatMap a = .fallback ∧
    deviceAt nesMapDefault a =
      if a.toNat < 0x2000 then .ram 0x0800
      else if a.toNat < 0x4000 then .ppuReg (BitVec.ofNat 3 a.toNat)
      else if a.toNat = 0x4014 then .dmaTrigger
      else if a.toNat < 0x4020 then .apu
      else .fallback

/-- R62: `Read16bug` stays in the page, `Read16` wraps at 0xFFFF; both put the first byte read in the low half. -/
def Obligations.SixteenBitReads : Prop :=
  ∀ (a : Addr) (s : State) (i j k : Nat), backing s a = some i → backing s (a + 1) = some j →
    backing s (word (hiByte a) (loByte a + 1)) = some k →
    read16 a s = (word (s.mem.read j) (s.mem.read i), s) ∧ read16bug a s = (word (s.mem.read k) (s.mem.read i), s) ∧
    (loByte a ≠ 0xFF → read16bug a s = read16 a s)

/-! ### Invariants -/

/-- The invariants hold after `reset()` of any constructed core whose store is canonical (R42, R380, R381), and of `State.reset`,
whose A, X, Y and store are the model's choice (log entries 3, 4 and 5). -/
def Obligations.InvariantAfterReset : Prop :=
  (∀ (params : Params) (mem : Memory) (a x y : Byte), mem.wf = true →
    Inv (resetProcessor (State.construct params mem a x y)) ∧ DmaAligned (resetProcessor (State.construct params mem a x y)) ∧
    RatioHolds (resetProcessor (State.construct params mem a x y))) ∧
  Inv State.reset ∧ DmaAligned State.reset ∧ RatioHolds State.reset

/-- Every step keeps the invariant: the store stays canonical, U stays 1 (R32), the DMA countdown stays in 0-514 (R39) and its
low byte stays the number of bytes delivered (R311). -/
def Obligations.StepKeepsInvariant : Prop :=
  ∀ s t : State, Inv s → step s = .next t → Inv t

/-- Every host move keeps the invariant and the session's parameters (R41, R314), so every run of host moves does. -/
def Obligations.HostRunKeepsInvariant : Prop :=
  ∀ (moves : List HostMove) (s t : State), Inv s → hostRun moves s = .next t → Inv t ∧ t.params = s.params

/-- R36: under the default parameters `rem` stays in 0-8. -/
def Obligations.RemStaysWithinEight : Prop :=
  ∀ s t : State, s.params = Params.default → s.rem ≤ 8 → step s = .next t → t.rem ≤ 8

/-! ### Reset and host interface (70_reset_and_hazards.md, 50_scheduler_dma.md) -/

/-- R380, R385: `reset()` sets SP, P, PC, `rem` and the latches, makes no write, takes no tick and leaves the rest. Its only accesses
are the two vector reads: the peripheral sees what `Read16(0xFFFC)` gives it and nothing more. -/
def Obligations.ResetSequence : Prop :=
  ∀ s : State,
    let t := resetProcessor s
    t.sp = 0xFF ∧ t.p = 0x34 ∧ t.pc = (read16 0xFFFC s).1 ∧ t.rem = s.params.resetCycles ∧ t.ready = true ∧
    (s.params.resetClearsLatches = true → t.nmiPending = false ∧ t.irqPending = false) ∧
    (s.params.resetClearsLatches = false → t.nmiPending = s.nmiPending ∧ t.irqPending = s.irqPending) ∧
    t.a = s.a ∧ t.x = s.x ∧ t.y = s.y ∧ t.cycles = s.cycles ∧ t.periphCycles = s.periphCycles ∧ SameDma s t ∧
    SameMemory s t ∧ OnlyRegReads s t ∧ t.events = (read16 0xFFFC s).2.events ∧ t.draws = (read16 0xFFFC s).2.draws ∧
    t.params = s.params

/-- R382, R383: after loading and `reset()` the first tick runs the instruction at the vector's address. -/
def Obligations.BootRunsVectorTarget : Prop :=
  ∀ (mem : Memory) (a x y : Byte),
    let s := resetProcessor (State.construct Params.default mem a x y)
    InstructionNext s ∧ s.pc = word (mem.read 0xFFFD) (mem.read 0xFFFC) ∧ s.mem = mem ∧ s.a = a ∧ s.x = x ∧ s.y = y

/-- R315, R316, R76: the request latches, host accesses and `load_bytes`. -/
def Obligations.HostMoves : Prop :=
  ∀ s : State,
    hostMove .raiseNmi s = .next { s with nmiPending := true } ∧ hostMove .raiseIrq s = .next { s with irqPending := true } ∧
    (∀ addr, ∃ t, hostMove (.read addr) s = .next t ∧ NothingStored s t ∧ SameRegisters s t ∧ t.p = s.p ∧ t.pc = s.pc ∧
      t.rem = s.rem) ∧
    (∀ addr v, ∃ t, hostMove (.write addr v) s = .next t ∧ ByteWritten addr v s t ∧ SameSession s t ∧ SameRegisters s t ∧
      t.p = s.p ∧ t.pc = s.pc ∧ t.rem = s.rem) ∧
    (∀ start bytes, start.toNat + bytes.length ≤ 0x10000 →
      ∃ m, hostMove (.loadBytes start bytes) s = .next { s with mem := m } ∧ ∀ i, m.read i =
        if start.toNat ≤ i ∧ i < start.toNat + bytes.length then bytes.getD (i - start.toNat) 0 else s.mem.read i) ∧
    (∀ start bytes, 0x10000 < start.toNat + bytes.length →
      hostMove (.loadBytes start bytes) s = .refused .loadPastEnd)
end

