-- ==== Sys2Proof/Laws/Memory.lean ====
section
/-! SUPPORT. The laws of the backing store: read after write, and the canonical form is kept by every operation. -/

namespace Sys2Proof.Machine

@[simp] theorem Memory.read_nil (i : Nat) : Memory.read [] i = Config.unlistedByte := rfl

/-- An index below every cell reads as the unlisted byte. -/
theorem Memory.read_of_below {m : Memory} {i : Nat} (h : ∀ c ∈ m, i < c.1) : Memory.read m i = Config.unlistedByte := by
  induction m with
  | nil => rfl
  | cons c rest ih =>
    obtain ⟨k, v⟩ := c
    have hk : i < k := h (k, v) (by simp)
    have : k ≠ i := by omega
    simp only [Memory.read, this, if_false]
    exact ih fun c hc => h c (by simp [hc])

/-- What the canonical form says of a non-empty store. -/
theorem Memory.wf_cons {k : Nat} {v : Byte} {rest : Memory} :
    Memory.wf ((k, v) :: rest) = true ↔
      v ≠ Config.unlistedByte ∧ k < 0x10000 ∧ (∀ c ∈ rest, k < c.1) ∧ Memory.wf rest = true := by
  simp [Memory.wf, and_assoc]

theorem Memory.read_insert (m : Memory) (i : Nat) (b : Byte) (j : Nat) :
    (m.insert i b).read j = if i = j then b else m.read j := by
  induction m with
  | nil => rfl
  | cons c rest ih =>
    obtain ⟨k, v⟩ := c
    simp only [Memory.insert]
    by_cases h1 : i < k
    · rw [if_pos h1, Memory.read]
    · by_cases h2 : i = k
      · subst h2
        by_cases hj : i = j <;> simp [Memory.read, hj]
      · rw [if_neg h1, if_neg h2]
        by_cases hj : k = j
        · have : ¬ i = j := fun e => h2 (e.trans hj.symm)
          simp only [Memory.read, hj, this, if_true, if_false]
        · simp only [Memory.read, hj, ih, if_false]

theorem Memory.read_remove (m : Memory) (i j : Nat) :
    (m.remove i).read j = if i = j then Config.unlistedByte else m.read j := by
  induction m with
  | nil => simp [Memory.remove]
  | cons c rest ih =>
    obtain ⟨k, v⟩ := c
    by_cases hk : k = i
    · subst hk
      by_cases hj : k = j
      · subst hj; simpa [Memory.remove] using ih
      · simpa [Memory.remove, Memory.read, hj] using ih
    · by_cases hj : k = j
      · subst hj
        have : ¬ i = k := fun e => hk e.symm
        simp only [Memory.remove, hk, Memory.read, this, if_true, if_false]
      · simp only [Memory.remove, hk, Memory.read, hj, ih, if_false]

/-- A write changes the read of its own index only. -/
@[simp] theorem Memory.read_write (m : Memory) (i : Nat) (b : Byte) (j : Nat) :
    (m.write i b).read j = if j = i then b else m.read j := by
  have flip : (j = i) = (i = j) := propext ⟨Eq.symm, Eq.symm⟩
  by_cases h : b = Config.unlistedByte
  · simp only [Memory.write, h, if_true, Memory.read_remove, flip]
  · simp only [Memory.write, h, if_false, Memory.read_insert, flip]

/-- The cells of a store with a cell put in are old cells or the new one. -/
theorem Memory.mem_insert {m : Memory} {i : Nat} {b : Byte} {c : Host.Cell} (hc : c ∈ m.insert i b) :
    c ∈ m ∨ c = (i, b) := by
  induction m with
  | nil => simpa [Memory.insert] using hc
  | cons d rest ih =>
    obtain ⟨k, v⟩ := d
    simp only [Memory.insert] at hc
    split_ifs at hc
    · rcases List.mem_cons.mp hc with h | h
      · exact .inr h
      · exact .inl h
    · rcases List.mem_cons.mp hc with h | h
      · exact .inr h
      · exact .inl (List.mem_cons_of_mem _ h)
    · rcases List.mem_cons.mp hc with h | h
      · exact .inl (by simp [h])
      · exact (ih h).imp (List.mem_cons_of_mem _) id

/-- The cells of a store with an index taken out are old cells. -/
theorem Memory.mem_remove {m : Memory} {i : Nat} {c : Host.Cell} (hc : c ∈ m.remove i) : c ∈ m := by
  induction m with
  | nil => exact hc
  | cons d rest ih =>
    obtain ⟨k, v⟩ := d
    simp only [Memory.remove] at hc
    split_ifs at hc
    · exact List.mem_cons_of_mem _ (ih hc)
    · rcases List.mem_cons.mp hc with h | h
      · simp [h]
      · exact List.mem_cons_of_mem _ (ih h)

theorem Memory.insert_wf {m : Memory} (h : m.wf = true) {i : Nat} (hi : i < 0x10000) {b : Byte}
    (hb : b ≠ Config.unlistedByte) : (m.insert i b).wf = true := by
  induction m with
  | nil => simp [Memory.insert, Memory.wf, hb, hi]
  | cons c rest ih =>
    obtain ⟨k, v⟩ := c
    obtain ⟨hv, hk, hlt, hrest⟩ := Memory.wf_cons.mp h
    simp only [Memory.insert]
    split_ifs with h1 h2
    · refine Memory.wf_cons.mpr ⟨hb, hi, fun c hc => ?_, h⟩
      rcases List.mem_cons.mp hc with rfl | hc
      · exact h1
      · exact h1.trans (hlt c hc)
    · exact Memory.wf_cons.mpr ⟨hb, hi, h2 ▸ hlt, hrest⟩
    · refine Memory.wf_cons.mpr ⟨hv, hk, fun c hc => ?_, ih hrest⟩
      rcases Memory.mem_insert hc with hc | rfl
      · exact hlt c hc
      · exact lt_of_le_of_ne (by omega) (fun e => h2 e.symm)

theorem Memory.remove_wf {m : Memory} (h : m.wf = true) (i : Nat) : (m.remove i).wf = true := by
  induction m with
  | nil => rfl
  | cons c rest ih =>
    obtain ⟨k, v⟩ := c
    obtain ⟨hv, hk, hlt, hrest⟩ := Memory.wf_cons.mp h
    simp only [Memory.remove]
    split_ifs
    · exact ih hrest
    · exact Memory.wf_cons.mpr ⟨hv, hk, fun c hc => hlt c (Memory.mem_remove hc), ih hrest⟩

/-- A write below 0x10000 keeps the canonical form. -/
theorem Memory.write_wf {m : Memory} (h : m.wf = true) {i : Nat} (hi : i < 0x10000) (b : Byte) :
    (m.write i b).wf = true := by
  unfold Memory.write
  split_ifs with hb
  · exact Memory.remove_wf h i
  · exact Memory.insert_wf h hi hb

/-- A run of writes below 0x10000 keeps the canonical form (`load_bytes`, R76). -/
theorem Memory.writeAll_wf {m : Memory} (h : m.wf = true) {i : Nat} (bytes : List Byte) (hi : i + bytes.length ≤ 0x10000) :
    (m.writeAll i bytes).wf = true := by
  induction bytes generalizing m i with
  | nil => exact h
  | cons b rest ih =>
    simp only [List.length_cons] at hi
    exact ih (Memory.write_wf h (by omega) b) (by omega)

/-- What `load_bytes` stores (R76): the j-th byte at the j-th index, nothing elsewhere. -/
theorem Memory.read_writeAll (m : Memory) (i : Nat) (bytes : List Byte) (j : Nat) :
    (m.writeAll i bytes).read j =
      if i ≤ j ∧ j < i + bytes.length then bytes.getD (j - i) Config.unlistedByte else m.read j := by
  induction bytes generalizing m i with
  | nil =>
    have : ¬ (i ≤ j ∧ j < i + 0) := by omega
    simp only [Memory.writeAll, List.length_nil, this, if_false]
  | cons b rest ih =>
    rw [Memory.writeAll, ih, Memory.read_write]
    by_cases hj : j = i
    · subst hj; simp
    · by_cases hin : i + 1 ≤ j ∧ j < i + 1 + rest.length
      · have h2 : i ≤ j ∧ j < i + (rest.length + 1) := by omega
        have h3 : j - i = j - (i + 1) + 1 := by omega
        simp [hin, h2, h3]
      · have h2 : ¬ (i ≤ j ∧ j < i + (rest.length + 1)) := by omega
        simp only [hin, h2, hj, List.length_cons, if_false]

/-- Two canonical stores that read alike are the same list. -/
theorem Memory.ext_of_read {m n : Memory} (hm : m.wf = true) (hn : n.wf = true) (h : ∀ i, m.read i = n.read i) :
    m = n := by
  induction m generalizing n with
  | nil =>
    cases n with
    | nil => rfl
    | cons d _ =>
      obtain ⟨hv, -⟩ := Memory.wf_cons.mp hn
      have := h d.1
      simp only [Memory.read, if_true] at this
      exact absurd this.symm hv
  | cons c rest ih =>
    obtain ⟨k, v⟩ := c
    obtain ⟨hv, -, hlt, hrest⟩ := Memory.wf_cons.mp hm
    cases n with
    | nil =>
      have := h k
      simp only [Memory.read, if_true] at this
      exact absurd this hv
    | cons d rest' =>
      obtain ⟨k', v'⟩ := d
      obtain ⟨hv', -, hlt', hrest'⟩ := Memory.wf_cons.mp hn
      have hkk : k = k' := by
        rcases lt_trichotomy k k' with hl | rfl | hl
        · have e := h k
          have hne : k' ≠ k := by omega
          rw [Memory.read, if_pos rfl, Memory.read, if_neg hne,
            Memory.read_of_below fun c hc => hl.trans (hlt' c hc)] at e
          exact absurd e hv
        · rfl
        · have e := h k'
          have hne : k ≠ k' := by omega
          rw [Memory.read, if_neg hne, Memory.read_of_below fun c hc => hl.trans (hlt c hc), Memory.read,
            if_pos rfl] at e
          exact absurd e.symm hv'
      subst hkk
      have hvv : v = v' := by simpa [Memory.read] using h k
      subst hvv
      congr 1
      refine ih hrest hrest' fun i => ?_
      by_cases hi : k = i
      · subst hi
        rw [Memory.read_of_below hlt, Memory.read_of_below hlt']
      · simpa [Memory.read, hi] using h i

/-- The store right after reset is canonical. -/
theorem reset_mem_wf : Memory.wf State.reset.mem = true := rfl

end Sys2Proof.Machine
end

