-- ==== Sys2Proof/Laws/State.lean ====
section
/-! SUPPORT. One lemma per field per named update of the state, each true by definition, so that no later proof unfolds a
record update. -/

namespace Sys2Proof.Machine

@[simp] theorem deliver_a (call : PeriphCall) (s : State) : (deliver call s).a = s.a := rfl
@[simp] theorem deliver_x (call : PeriphCall) (s : State) : (deliver call s).x = s.x := rfl
@[simp] theorem deliver_y (call : PeriphCall) (s : State) : (deliver call s).y = s.y := rfl
@[simp] theorem deliver_sp (call : PeriphCall) (s : State) : (deliver call s).sp = s.sp := rfl
@[simp] theorem deliver_p (call : PeriphCall) (s : State) : (deliver call s).p = s.p := rfl
@[simp] theorem deliver_pc (call : PeriphCall) (s : State) : (deliver call s).pc = s.pc := rfl
@[simp] theorem deliver_rem (call : PeriphCall) (s : State) : (deliver call s).rem = s.rem := rfl
@[simp] theorem deliver_nmiPending (call : PeriphCall) (s : State) : (deliver call s).nmiPending = s.nmiPending := rfl
@[simp] theorem deliver_irqPending (call : PeriphCall) (s : State) : (deliver call s).irqPending = s.irqPending := rfl
@[simp] theorem deliver_trap (call : PeriphCall) (s : State) : (deliver call s).trap = s.trap := rfl
@[simp] theorem deliver_cycles (call : PeriphCall) (s : State) : (deliver call s).cycles = s.cycles := rfl
@[simp] theorem deliver_periphCycles (call : PeriphCall) (s : State) : (deliver call s).periphCycles = s.periphCycles := rfl
@[simp] theorem deliver_dmaCount (call : PeriphCall) (s : State) : (deliver call s).dmaCount = s.dmaCount := rfl
@[simp] theorem deliver_dmaPage (call : PeriphCall) (s : State) : (deliver call s).dmaPage = s.dmaPage := rfl
@[simp] theorem deliver_dmaLow (call : PeriphCall) (s : State) : (deliver call s).dmaLow = s.dmaLow := rfl
@[simp] theorem deliver_dmaLatch (call : PeriphCall) (s : State) : (deliver call s).dmaLatch = s.dmaLatch := rfl
@[simp] theorem deliver_mem (call : PeriphCall) (s : State) : (deliver call s).mem = s.mem := rfl
@[simp] theorem deliver_ready (call : PeriphCall) (s : State) : (deliver call s).ready = s.ready := rfl
@[simp] theorem deliver_params (call : PeriphCall) (s : State) : (deliver call s).params = s.params := rfl
@[simp] theorem deliver_draws (call : PeriphCall) (s : State) : (deliver call s).draws = s.draws := rfl
@[simp] theorem deliver_events (call : PeriphCall) (s : State) : (deliver call s).events = ⟨s.periphCycles, call⟩ :: s.events := rfl

@[simp] theorem dmaArm_a (v : Byte) (s : State) : (dmaArm v s).a = s.a := rfl
@[simp] theorem dmaArm_x (v : Byte) (s : State) : (dmaArm v s).x = s.x := rfl
@[simp] theorem dmaArm_y (v : Byte) (s : State) : (dmaArm v s).y = s.y := rfl
@[simp] theorem dmaArm_sp (v : Byte) (s : State) : (dmaArm v s).sp = s.sp := rfl
@[simp] theorem dmaArm_p (v : Byte) (s : State) : (dmaArm v s).p = s.p := rfl
@[simp] theorem dmaArm_pc (v : Byte) (s : State) : (dmaArm v s).pc = s.pc := rfl
@[simp] theorem dmaArm_rem (v : Byte) (s : State) : (dmaArm v s).rem = s.rem := rfl
@[simp] theorem dmaArm_nmiPending (v : Byte) (s : State) : (dmaArm v s).nmiPending = s.nmiPending := rfl
@[simp] theorem dmaArm_irqPending (v : Byte) (s : State) : (dmaArm v s).irqPending = s.irqPending := rfl
@[simp] theorem dmaArm_trap (v : Byte) (s : State) : (dmaArm v s).trap = s.trap := rfl
@[simp] theorem dmaArm_cycles (v : Byte) (s : State) : (dmaArm v s).cycles = s.cycles := rfl
@[simp] theorem dmaArm_periphCycles (v : Byte) (s : State) : (dmaArm v s).periphCycles = s.periphCycles := rfl
@[simp] theorem dmaArm_dmaCount (v : Byte) (s : State) : (dmaArm v s).dmaCount = 513 + s.cycles % 2 := rfl
@[simp] theorem dmaArm_dmaPage (v : Byte) (s : State) : (dmaArm v s).dmaPage = v := rfl
@[simp] theorem dmaArm_dmaLow (v : Byte) (s : State) : (dmaArm v s).dmaLow = 0x00 := rfl
@[simp] theorem dmaArm_dmaLatch (v : Byte) (s : State) : (dmaArm v s).dmaLatch = s.dmaLatch := rfl
@[simp] theorem dmaArm_mem (v : Byte) (s : State) : (dmaArm v s).mem = s.mem := rfl
@[simp] theorem dmaArm_ready (v : Byte) (s : State) : (dmaArm v s).ready = s.ready := rfl
@[simp] theorem dmaArm_params (v : Byte) (s : State) : (dmaArm v s).params = s.params := rfl
@[simp] theorem dmaArm_draws (v : Byte) (s : State) : (dmaArm v s).draws = s.draws := rfl
@[simp] theorem dmaArm_events (v : Byte) (s : State) : (dmaArm v s).events = s.events := rfl

@[simp] theorem advance_a (n : Nat) (s : State) : (advance n s).a = s.a := rfl
@[simp] theorem advance_x (n : Nat) (s : State) : (advance n s).x = s.x := rfl
@[simp] theorem advance_y (n : Nat) (s : State) : (advance n s).y = s.y := rfl
@[simp] theorem advance_sp (n : Nat) (s : State) : (advance n s).sp = s.sp := rfl
@[simp] theorem advance_p (n : Nat) (s : State) : (advance n s).p = s.p := rfl
@[simp] theorem advance_pc (n : Nat) (s : State) : (advance n s).pc = s.pc + BitVec.ofNat 16 n := rfl
@[simp] theorem advance_rem (n : Nat) (s : State) : (advance n s).rem = s.rem := rfl
@[simp] theorem advance_nmiPending (n : Nat) (s : State) : (advance n s).nmiPending = s.nmiPending := rfl
@[simp] theorem advance_irqPending (n : Nat) (s : State) : (advance n s).irqPending = s.irqPending := rfl
@[simp] theorem advance_trap (n : Nat) (s : State) : (advance n s).trap = s.trap := rfl
@[simp] theorem advance_cycles (n : Nat) (s : State) : (advance n s).cycles = s.cycles := rfl
@[simp] theorem advance_periphCycles (n : Nat) (s : State) : (advance n s).periphCycles = s.periphCycles := rfl
@[simp] theorem advance_dmaCount (n : Nat) (s : State) : (advance n s).dmaCount = s.dmaCount := rfl
@[simp] theorem advance_dmaPage (n : Nat) (s : State) : (advance n s).dmaPage = s.dmaPage := rfl
@[simp] theorem advance_dmaLow (n : Nat) (s : State) : (advance n s).dmaLow = s.dmaLow := rfl
@[simp] theorem advance_dmaLatch (n : Nat) (s : State) : (advance n s).dmaLatch = s.dmaLatch := rfl
@[simp] theorem advance_mem (n : Nat) (s : State) : (advance n s).mem = s.mem := rfl
@[simp] theorem advance_ready (n : Nat) (s : State) : (advance n s).ready = s.ready := rfl
@[simp] theorem advance_params (n : Nat) (s : State) : (advance n s).params = s.params := rfl
@[simp] theorem advance_draws (n : Nat) (s : State) : (advance n s).draws = s.draws := rfl
@[simp] theorem advance_events (n : Nat) (s : State) : (advance n s).events = s.events := rfl

@[simp] theorem endTick_a (s : State) : (endTick s).a = s.a := rfl
@[simp] theorem endTick_x (s : State) : (endTick s).x = s.x := rfl
@[simp] theorem endTick_y (s : State) : (endTick s).y = s.y := rfl
@[simp] theorem endTick_sp (s : State) : (endTick s).sp = s.sp := rfl
@[simp] theorem endTick_p (s : State) : (endTick s).p = s.p := rfl
@[simp] theorem endTick_pc (s : State) : (endTick s).pc = s.pc := rfl
@[simp] theorem endTick_rem (s : State) : (endTick s).rem = s.rem := rfl
@[simp] theorem endTick_nmiPending (s : State) : (endTick s).nmiPending = s.nmiPending := rfl
@[simp] theorem endTick_irqPending (s : State) : (endTick s).irqPending = s.irqPending := rfl
@[simp] theorem endTick_trap (s : State) : (endTick s).trap = s.trap := rfl
@[simp] theorem endTick_cycles (s : State) : (endTick s).cycles = s.cycles + 1 := rfl
@[simp] theorem endTick_periphCycles (s : State) : (endTick s).periphCycles = s.periphCycles + s.params.periphRatio := rfl
@[simp] theorem endTick_dmaCount (s : State) : (endTick s).dmaCount = s.dmaCount := rfl
@[simp] theorem endTick_dmaPage (s : State) : (endTick s).dmaPage = s.dmaPage := rfl
@[simp] theorem endTick_dmaLow (s : State) : (endTick s).dmaLow = s.dmaLow := rfl
@[simp] theorem endTick_dmaLatch (s : State) : (endTick s).dmaLatch = s.dmaLatch := rfl
@[simp] theorem endTick_mem (s : State) : (endTick s).mem = s.mem := rfl
@[simp] theorem endTick_ready (s : State) : (endTick s).ready = s.ready := rfl
@[simp] theorem endTick_params (s : State) : (endTick s).params = s.params := rfl
@[simp] theorem endTick_draws (s : State) : (endTick s).draws = s.draws := rfl
@[simp] theorem endTick_events (s : State) : (endTick s).events = s.events := rfl

@[simp] theorem endInterrupt_a (s : State) : (endInterrupt s).a = s.a := rfl
@[simp] theorem endInterrupt_x (s : State) : (endInterrupt s).x = s.x := rfl
@[simp] theorem endInterrupt_y (s : State) : (endInterrupt s).y = s.y := rfl
@[simp] theorem endInterrupt_sp (s : State) : (endInterrupt s).sp = s.sp := rfl
@[simp] theorem endInterrupt_p (s : State) : (endInterrupt s).p = s.p := rfl
@[simp] theorem endInterrupt_pc (s : State) : (endInterrupt s).pc = s.pc := rfl
@[simp] theorem endInterrupt_rem (s : State) : (endInterrupt s).rem = s.params.intCycles := rfl
@[simp] theorem endInterrupt_nmiPending (s : State) : (endInterrupt s).nmiPending = s.nmiPending := rfl
@[simp] theorem endInterrupt_irqPending (s : State) : (endInterrupt s).irqPending = s.irqPending := rfl
@[simp] theorem endInterrupt_trap (s : State) : (endInterrupt s).trap = false := rfl
@[simp] theorem endInterrupt_cycles (s : State) : (endInterrupt s).cycles = s.cycles := rfl
@[simp] theorem endInterrupt_periphCycles (s : State) : (endInterrupt s).periphCycles = s.periphCycles := rfl
@[simp] theorem endInterrupt_dmaCount (s : State) : (endInterrupt s).dmaCount = s.dmaCount := rfl
@[simp] theorem endInterrupt_dmaPage (s : State) : (endInterrupt s).dmaPage = s.dmaPage := rfl
@[simp] theorem endInterrupt_dmaLow (s : State) : (endInterrupt s).dmaLow = s.dmaLow := rfl
@[simp] theorem endInterrupt_dmaLatch (s : State) : (endInterrupt s).dmaLatch = s.dmaLatch := rfl
@[simp] theorem endInterrupt_mem (s : State) : (endInterrupt s).mem = s.mem := rfl
@[simp] theorem endInterrupt_ready (s : State) : (endInterrupt s).ready = s.ready := rfl
@[simp] theorem endInterrupt_params (s : State) : (endInterrupt s).params = s.params := rfl
@[simp] theorem endInterrupt_draws (s : State) : (endInterrupt s).draws = s.draws := rfl
@[simp] theorem endInterrupt_events (s : State) : (endInterrupt s).events = s.events := rfl

@[simp] theorem noteTrap_a (before : Addr) (s : State) : (noteTrap before s).a = s.a := rfl
@[simp] theorem noteTrap_x (before : Addr) (s : State) : (noteTrap before s).x = s.x := rfl
@[simp] theorem noteTrap_y (before : Addr) (s : State) : (noteTrap before s).y = s.y := rfl
@[simp] theorem noteTrap_sp (before : Addr) (s : State) : (noteTrap before s).sp = s.sp := rfl
@[simp] theorem noteTrap_p (before : Addr) (s : State) : (noteTrap before s).p = s.p := rfl
@[simp] theorem noteTrap_pc (before : Addr) (s : State) : (noteTrap before s).pc = s.pc := rfl
@[simp] theorem noteTrap_rem (before : Addr) (s : State) : (noteTrap before s).rem = s.rem := rfl
@[simp] theorem noteTrap_nmiPending (before : Addr) (s : State) : (noteTrap before s).nmiPending = s.nmiPending := rfl
@[simp] theorem noteTrap_irqPending (before : Addr) (s : State) : (noteTrap before s).irqPending = s.irqPending := rfl
@[simp] theorem noteTrap_trap (before : Addr) (s : State) : (noteTrap before s).trap = (s.pc == before) := rfl
@[simp] theorem noteTrap_cycles (before : Addr) (s : State) : (noteTrap before s).cycles = s.cycles := rfl
@[simp] theorem noteTrap_periphCycles (before : Addr) (s : State) : (noteTrap before s).periphCycles = s.periphCycles := rfl
@[simp] theorem noteTrap_dmaCount (before : Addr) (s : State) : (noteTrap before s).dmaCount = s.dmaCount := rfl
@[simp] theorem noteTrap_dmaPage (before : Addr) (s : State) : (noteTrap before s).dmaPage = s.dmaPage := rfl
@[simp] theorem noteTrap_dmaLow (before : Addr) (s : State) : (noteTrap before s).dmaLow = s.dmaLow := rfl
@[simp] theorem noteTrap_dmaLatch (before : Addr) (s : State) : (noteTrap before s).dmaLatch = s.dmaLatch := rfl
@[simp] theorem noteTrap_mem (before : Addr) (s : State) : (noteTrap before s).mem = s.mem := rfl
@[simp] theorem noteTrap_ready (before : Addr) (s : State) : (noteTrap before s).ready = s.ready := rfl
@[simp] theorem noteTrap_params (before : Addr) (s : State) : (noteTrap before s).params = s.params := rfl
@[simp] theorem noteTrap_draws (before : Addr) (s : State) : (noteTrap before s).draws = s.draws := rfl
@[simp] theorem noteTrap_events (before : Addr) (s : State) : (noteTrap before s).events = s.events := rfl

end Sys2Proof.Machine
end

