-- ==== Sys2Proof/Laws/Bus.lean ====
section
/-! SUPPORT. What one access to the address space can do: the fields a read and a write keep, and the whole effect of a read and
of a write in the terms of Safety.lean. Later proofs cite these and do not unfold `busRead` and `busWrite`. -/

namespace Sys2Proof.Machine

@[simp] theorem busRead_a (addr : Addr) (s : State) : (busRead addr s).2.a = s.a := by
  unfold busRead; split <;> rfl

@[simp] theorem busRead_x (addr : Addr) (s : State) : (busRead addr s).2.x = s.x := by
  unfold busRead; split <;> rfl

@[simp] theorem busRead_y (addr : Addr) (s : State) : (busRead addr s).2.y = s.y := by
  unfold busRead; split <;> rfl

@[simp] theorem busRead_sp (addr : Addr) (s : State) : (busRead addr s).2.sp = s.sp := by
  unfold busRead; split <;> rfl

@[simp] theorem busRead_p (addr : Addr) (s : State) : (busRead addr s).2.p = s.p := by
  unfold busRead; split <;> rfl

@[simp] theorem busRead_pc (addr : Addr) (s : State) : (busRead addr s).2.pc = s.pc := by
  unfold busRead; split <;> rfl

@[simp] theorem busRead_rem (addr : Addr) (s : State) : (busRead addr s).2.rem = s.rem := by
  unfold busRead; split <;> rfl

@[simp] theorem busRead_nmiPending (addr : Addr) (s : State) : (busRead addr s).2.nmiPending = s.nmiPending := by
  unfold busRead; split <;> rfl

@[simp] theorem busRead_irqPending (addr : Addr) (s : State) : (busRead addr s).2.irqPending = s.irqPending := by
  unfold busRead; split <;> rfl

@[simp] theorem busRead_trap (addr : Addr) (s : State) : (busRead addr s).2.trap = s.trap := by
  unfold busRead; split <;> rfl

@[simp] theorem busRead_cycles (addr : Addr) (s : State) : (busRead addr s).2.cycles = s.cycles := by
  unfold busRead; split <;> rfl

@[simp] theorem busRead_periphCycles (addr : Addr) (s : State) : (busRead addr s).2.periphCycles = s.periphCycles := by
  unfold busRead; split <;> rfl

@[simp] theorem busRead_dmaCount (addr : Addr) (s : State) : (busRead addr s).2.dmaCount = s.dmaCount := by
  unfold busRead; split <;> rfl

@[simp] theorem busRead_dmaPage (addr : Addr) (s : State) : (busRead addr s).2.dmaPage = s.dmaPage := by
  unfold busRead; split <;> rfl

@[simp] theorem busRead_dmaLow (addr : Addr) (s : State) : (busRead addr s).2.dmaLow = s.dmaLow := by
  unfold busRead; split <;> rfl

@[simp] theorem busRead_dmaLatch (addr : Addr) (s : State) : (busRead addr s).2.dmaLatch = s.dmaLatch := by
  unfold busRead; split <;> rfl

@[simp] theorem busRead_mem (addr : Addr) (s : State) : (busRead addr s).2.mem = s.mem := by
  unfold busRead; split <;> rfl

@[simp] theorem busRead_ready (addr : Addr) (s : State) : (busRead addr s).2.ready = s.ready := by
  unfold busRead; split <;> rfl

@[simp] theorem busRead_params (addr : Addr) (s : State) : (busRead addr s).2.params = s.params := by
  unfold busRead; split <;> rfl

@[simp] theorem busWrite_a (addr : Addr) (v : Byte) (s : State) : (busWrite addr v s).a = s.a := by
  unfold busWrite; split <;> rfl

@[simp] theorem busWrite_x (addr : Addr) (v : Byte) (s : State) : (busWrite addr v s).x = s.x := by
  unfold busWrite; split <;> rfl

@[simp] theorem busWrite_y (addr : Addr) (v : Byte) (s : State) : (busWrite addr v s).y = s.y := by
  unfold busWrite; split <;> rfl

@[simp] theorem busWrite_sp (addr : Addr) (v : Byte) (s : State) : (busWrite addr v s).sp = s.sp := by
  unfold busWrite; split <;> rfl

@[simp] theorem busWrite_p (addr : Addr) (v : Byte) (s : State) : (busWrite addr v s).p = s.p := by
  unfold busWrite; split <;> rfl

@[simp] theorem busWrite_pc (addr : Addr) (v : Byte) (s : State) : (busWrite addr v s).pc = s.pc := by
  unfold busWrite; split <;> rfl

@[simp] theorem busWrite_rem (addr : Addr) (v : Byte) (s : State) : (busWrite addr v s).rem = s.rem := by
  unfold busWrite; split <;> rfl

@[simp] theorem busWrite_nmiPending (addr : Addr) (v : Byte) (s : State) : (busWrite addr v s).nmiPending = s.nmiPending := by
  unfold busWrite; split <;> rfl

@[simp] theorem busWrite_irqPending (addr : Addr) (v : Byte) (s : State) : (busWrite addr v s).irqPending = s.irqPending := by
  unfold busWrite; split <;> rfl

@[simp] theorem busWrite_trap (addr : Addr) (v : Byte) (s : State) : (busWrite addr v s).trap = s.trap := by
  unfold busWrite; split <;> rfl

@[simp] theorem busWrite_cycles (addr : Addr) (v : Byte) (s : State) : (busWrite addr v s).cycles = s.cycles := by
  unfold busWrite; split <;> rfl

@[simp] theorem busWrite_periphCycles (addr : Addr) (v : Byte) (s : State) : (busWrite addr v s).periphCycles = s.periphCycles := by
  unfold busWrite; split <;> rfl

@[simp] theorem busWrite_dmaLatch (addr : Addr) (v : Byte) (s : State) : (busWrite addr v s).dmaLatch = s.dmaLatch := by
  unfold busWrite; split <;> rfl

@[simp] theorem busWrite_ready (addr : Addr) (v : Byte) (s : State) : (busWrite addr v s).ready = s.ready := by
  unfold busWrite; split <;> rfl

@[simp] theorem busWrite_params (addr : Addr) (v : Byte) (s : State) : (busWrite addr v s).params = s.params := by
  unfold busWrite; split <;> rfl

@[simp] theorem busWrite_draws (addr : Addr) (v : Byte) (s : State) : (busWrite addr v s).draws = s.draws := by
  unfold busWrite; split <;> rfl

/-- An index of the backing store is below 0x10000 (R54, R58). -/
theorem storeIndex_lt {d : Device} {addr : Addr} {i : Nat} (h : storeIndex d addr = some i) : i < 0x10000 := by
  have ha : addr.toNat < 0x10000 := addr.isLt
  cases d with
  | ram w =>
    have : addr.toNat % w = i := by simpa [storeIndex] using h
    have := Nat.mod_le addr.toNat w
    omega
  | fallback =>
    have : addr.toNat = i := by simpa [storeIndex] using h
    omega
  | ppuReg _ => simp [storeIndex] at h
  | apu => simp [storeIndex] at h
  | dmaTrigger => simp [storeIndex] at h

/-- A read where the store is behind the address: the byte stored there, and no effect (R54, R58, R65). -/
theorem busRead_of_backing {addr : Addr} {s : State} {i : Nat} (h : backing s addr = some i) :
    busRead addr s = (s.mem.read i, s) := by
  unfold backing at h
  unfold busRead
  cases hd : deviceAt s.params.map addr <;> rw [hd] at h <;> simp_all [storeIndex]

/-- A read stores nothing. -/
theorem busRead_nothingStored (addr : Addr) (s : State) : NothingStored s (busRead addr s).2 := by
  refine ⟨by simp [SameSession], by simp [SameDma], by simp [SameMemory], ?_⟩
  unfold busRead
  split
  case h_3 n _ => exact ⟨[⟨s.periphCycles, .regRead n⟩], by simp [deliver], by simp [deliver], by simp⟩
  all_goals exact ⟨[], by simp⟩

/-- A write has the effect of the device at the address, and no other (R54-R58). -/
theorem busWrite_byteWritten (addr : Addr) (v : Byte) (s : State) : ByteWritten addr v s (busWrite addr v s) := by
  unfold ByteWritten backing busWrite
  cases hd : deviceAt s.params.map addr <;>
    simp [storeIndex, SameDma, eq_comm]

/-- A write keeps the canonical form of the store. -/
theorem busWrite_wf {s : State} (h : s.mem.wf = true) (addr : Addr) (v : Byte) :
    (busWrite addr v s).mem.wf = true := by
  unfold busWrite
  split
  case h_1 w hd =>
    exact Memory.write_wf h (storeIndex_lt (d := .ram w) (addr := addr) rfl) v
  case h_2 hd => exact Memory.write_wf h (storeIndex_lt (d := .fallback) (addr := addr) rfl) v
  all_goals simpa using h

/-- Storing nothing twice is storing nothing. -/
theorem NothingStored.trans {s t u : State} (h1 : NothingStored s t) (h2 : NothingStored t u) : NothingStored s u := by
  obtain ⟨⟨a1, a2, a3, a4, a5, a6, a7⟩, ⟨b1, b2, b3, b4⟩, m1, l1, e1, d1, r1⟩ := h1
  obtain ⟨⟨a1', a2', a3', a4', a5', a6', a7'⟩, ⟨b1', b2', b3', b4'⟩, m2, l2, e2, d2, r2⟩ := h2
  refine ⟨?_, ?_, fun i => (m2 i).trans (m1 i), l2 ++ l1, by simp [e2, e1], by simp [d2, d1]; omega, ?_⟩
  · simp [SameSession, *]
  · simp [SameDma, *]
  · intro e he
    rcases List.mem_append.mp he with h | h
    · exact r2 e h
    · exact r1 e h

theorem NothingStored.refl (s : State) : NothingStored s s :=
  ⟨by simp [SameSession], by simp [SameDma], fun _ => rfl, [], by simp, by simp, by simp⟩

@[simp] theorem readPair_a (lo hi : Addr) (s : State) : (readPair lo hi s).2.a = s.a := by
  simp [readPair]

@[simp] theorem readPair_x (lo hi : Addr) (s : State) : (readPair lo hi s).2.x = s.x := by
  simp [readPair]

@[simp] theorem readPair_y (lo hi : Addr) (s : State) : (readPair lo hi s).2.y = s.y := by
  simp [readPair]

@[simp] theorem readPair_sp (lo hi : Addr) (s : State) : (readPair lo hi s).2.sp = s.sp := by
  simp [readPair]

@[simp] theorem readPair_p (lo hi : Addr) (s : State) : (readPair lo hi s).2.p = s.p := by
  simp [readPair]

@[simp] theorem readPair_pc (lo hi : Addr) (s : State) : (readPair lo hi s).2.pc = s.pc := by
  simp [readPair]

@[simp] theorem readPair_rem (lo hi : Addr) (s : State) : (readPair lo hi s).2.rem = s.rem := by
  simp [readPair]

@[simp] theorem readPair_nmiPending (lo hi : Addr) (s : State) : (readPair lo hi s).2.nmiPending = s.nmiPending := by
  simp [readPair]

@[simp] theorem readPair_irqPending (lo hi : Addr) (s : State) : (readPair lo hi s).2.irqPending = s.irqPending := by
  simp [readPair]

@[simp] theorem readPair_trap (lo hi : Addr) (s : State) : (readPair lo hi s).2.trap = s.trap := by
  simp [readPair]

@[simp] theorem readPair_cycles (lo hi : Addr) (s : State) : (readPair lo hi s).2.cycles = s.cycles := by
  simp [readPair]

@[simp] theorem readPair_periphCycles (lo hi : Addr) (s : State) : (readPair lo hi s).2.periphCycles = s.periphCycles := by
  simp [readPair]

@[simp] theorem readPair_dmaCount (lo hi : Addr) (s : State) : (readPair lo hi s).2.dmaCount = s.dmaCount := by
  simp [readPair]

@[simp] theorem readPair_dmaPage (lo hi : Addr) (s : State) : (readPair lo hi s).2.dmaPage = s.dmaPage := by
  simp [readPair]

@[simp] theorem readPair_dmaLow (lo hi : Addr) (s : State) : (readPair lo hi s).2.dmaLow = s.dmaLow := by
  simp [readPair]

@[simp] theorem readPair_dmaLatch (lo hi : Addr) (s : State) : (readPair lo hi s).2.dmaLatch = s.dmaLatch := by
  simp [readPair]

@[simp] theorem readPair_mem (lo hi : Addr) (s : State) : (readPair lo hi s).2.mem = s.mem := by
  simp [readPair]

@[simp] theorem readPair_ready (lo hi : Addr) (s : State) : (readPair lo hi s).2.ready = s.ready := by
  simp [readPair]

@[simp] theorem readPair_params (lo hi : Addr) (s : State) : (readPair lo hi s).2.params = s.params := by
  simp [readPair]

theorem readPair_nothingStored (lo hi : Addr) (s : State) : NothingStored s (readPair lo hi s).2 :=
  (busRead_nothingStored lo s).trans (busRead_nothingStored hi _)

/-- A 16-bit read of two plain bytes (R62). -/
theorem readPair_of_backing {lo hi : Addr} {s : State} {i j : Nat} (hl : backing s lo = some i) (hh : backing s hi = some j) :
    readPair lo hi s = (word (s.mem.read j) (s.mem.read i), s) := by
  simp only [readPair, busRead_of_backing hl, busRead_of_backing hh]

@[simp] theorem push_a (v : Byte) (s : State) : (push v s).a = s.a := by simp [push]

@[simp] theorem push_x (v : Byte) (s : State) : (push v s).x = s.x := by simp [push]

@[simp] theorem push_y (v : Byte) (s : State) : (push v s).y = s.y := by simp [push]

@[simp] theorem push_p (v : Byte) (s : State) : (push v s).p = s.p := by simp [push]

@[simp] theorem push_pc (v : Byte) (s : State) : (push v s).pc = s.pc := by simp [push]

@[simp] theorem push_rem (v : Byte) (s : State) : (push v s).rem = s.rem := by simp [push]

@[simp] theorem push_nmiPending (v : Byte) (s : State) : (push v s).nmiPending = s.nmiPending := by simp [push]

@[simp] theorem push_irqPending (v : Byte) (s : State) : (push v s).irqPending = s.irqPending := by simp [push]

@[simp] theorem push_trap (v : Byte) (s : State) : (push v s).trap = s.trap := by simp [push]

@[simp] theorem push_cycles (v : Byte) (s : State) : (push v s).cycles = s.cycles := by simp [push]

@[simp] theorem push_periphCycles (v : Byte) (s : State) : (push v s).periphCycles = s.periphCycles := by simp [push]

@[simp] theorem push_dmaLatch (v : Byte) (s : State) : (push v s).dmaLatch = s.dmaLatch := by simp [push]

@[simp] theorem push_ready (v : Byte) (s : State) : (push v s).ready = s.ready := by simp [push]

@[simp] theorem push_params (v : Byte) (s : State) : (push v s).params = s.params := by simp [push]

@[simp] theorem push_draws (v : Byte) (s : State) : (push v s).draws = s.draws := by simp [push]

@[simp] theorem push_sp (v : Byte) (s : State) : (push v s).sp = s.sp - 1 := by simp [push]

@[simp] theorem pull_a (s : State) : (pull s).2.a = s.a := by simp [pull]

@[simp] theorem pull_x (s : State) : (pull s).2.x = s.x := by simp [pull]

@[simp] theorem pull_y (s : State) : (pull s).2.y = s.y := by simp [pull]

@[simp] theorem pull_p (s : State) : (pull s).2.p = s.p := by simp [pull]

@[simp] theorem pull_pc (s : State) : (pull s).2.pc = s.pc := by simp [pull]

@[simp] theorem pull_rem (s : State) : (pull s).2.rem = s.rem := by simp [pull]

@[simp] theorem pull_nmiPending (s : State) : (pull s).2.nmiPending = s.nmiPending := by simp [pull]

@[simp] theorem pull_irqPending (s : State) : (pull s).2.irqPending = s.irqPending := by simp [pull]

@[simp] theorem pull_trap (s : State) : (pull s).2.trap = s.trap := by simp [pull]

@[simp] theorem pull_cycles (s : State) : (pull s).2.cycles = s.cycles := by simp [pull]

@[simp] theorem pull_periphCycles (s : State) : (pull s).2.periphCycles = s.periphCycles := by simp [pull]

@[simp] theorem pull_dmaCount (s : State) : (pull s).2.dmaCount = s.dmaCount := by simp [pull]

@[simp] theorem pull_dmaPage (s : State) : (pull s).2.dmaPage = s.dmaPage := by simp [pull]

@[simp] theorem pull_dmaLow (s : State) : (pull s).2.dmaLow = s.dmaLow := by simp [pull]

@[simp] theorem pull_dmaLatch (s : State) : (pull s).2.dmaLatch = s.dmaLatch := by simp [pull]

@[simp] theorem pull_mem (s : State) : (pull s).2.mem = s.mem := by simp [pull]

@[simp] theorem pull_ready (s : State) : (pull s).2.ready = s.ready := by simp [pull]

@[simp] theorem pull_params (s : State) : (pull s).2.params = s.params := by simp [pull]

@[simp] theorem pull_sp (s : State) : (pull s).2.sp = s.sp + 1 := by simp [pull]

/-- A push writes one byte at the stack address (R74). -/
theorem push_byteWritten (v : Byte) (s : State) : ByteWritten (stackAddr s.sp) v s (push v s) :=
  busWrite_byteWritten (stackAddr s.sp) v s

/-- A push keeps the canonical form of the store. -/
theorem push_wf {s : State} (h : s.mem.wf = true) (v : Byte) : (push v s).mem.wf = true :=
  busWrite_wf h (stackAddr s.sp) v

/-- A pull stores nothing. -/
theorem pull_nothingStored (s : State) : NothingStored s (pull s).2 :=
  busRead_nothingStored (stackAddr (s.sp + 1)) { s with sp := s.sp + 1 }

/-- A pull of a plain byte (R74). -/
theorem pull_of_backing {s : State} {i : Nat} (h : backing s (stackAddr (s.sp + 1)) = some i) :
    pull s = (s.mem.read i, { s with sp := s.sp + 1 }) :=
  busRead_of_backing (s := { s with sp := s.sp + 1 }) h

end Sys2Proof.Machine
end

