-- ==== Sys2Proof/Laws/Words.lean ====
section
/-! SUPPORT. The two bytes of a 16-bit value (spec/00_scope.md R8). -/

namespace Sys2Proof

@[simp] theorem toNat_word (h l : Byte) : (word h l).toNat = 256 * h.toNat + l.toNat := by
  unfold word
  rw [BitVec.toNat_append, Nat.shiftLeft_eq, Nat.mul_comm, ← Nat.two_pow_add_eq_or_of_lt l.isLt]

theorem toNat_hiByte (v : Addr) : (hiByte v).toNat = v.toNat / 256 := by
  have := v.isLt
  unfold hiByte
  rw [BitVec.extractLsb'_toNat, Nat.shiftRight_eq_div_pow]
  omega

theorem toNat_loByte (v : Addr) : (loByte v).toNat = v.toNat % 256 := by
  unfold loByte
  rw [BitVec.extractLsb'_toNat, Nat.shiftRight_eq_div_pow]
  omega

@[simp] theorem hiByte_word (h l : Byte) : hiByte (word h l) = h := by
  apply BitVec.eq_of_toNat_eq
  have := l.isLt
  rw [toNat_hiByte, toNat_word]
  omega

@[simp] theorem loByte_word (h l : Byte) : loByte (word h l) = l := by
  apply BitVec.eq_of_toNat_eq
  have := l.isLt
  rw [toNat_loByte, toNat_word]
  omega

/-- A 16-bit value is its two bytes. -/
@[simp] theorem word_hiByte_loByte (v : Addr) : word (hiByte v) (loByte v) = v := by
  apply BitVec.eq_of_toNat_eq
  rw [toNat_word, toNat_hiByte, toNat_loByte]
  omega

theorem toNat_add_one {w : Nat} (h : 0 < w) (v : BitVec w) : (v + 1#w).toNat = (v.toNat + 1) % 2 ^ w := by
  have : 1 < 2 ^ w := Nat.one_lt_two_pow (by omega)
  rw [BitVec.toNat_add, BitVec.toNat_ofNat, Nat.mod_eq_of_lt this]

/-- The low byte of the next address is the next low byte. -/
theorem loByte_add_one (v : Addr) : loByte (v + 1) = loByte v + 1 := by
  apply BitVec.eq_of_toNat_eq
  have := toNat_add_one (by omega) v
  have := toNat_add_one (by omega) (loByte v)
  have := toNat_loByte v
  have := toNat_loByte (v + 1)
  have := v.isLt
  simp only [BitVec.ofNat_eq_ofNat] at *
  omega

/-- Inside a page the high byte of the next address is that of the address. -/
theorem hiByte_add_one {v : Addr} (h : loByte v ≠ 0xFF) : hiByte (v + 1) = hiByte v := by
  have h' : v.toNat % 256 ≠ 255 := fun e => h (BitVec.eq_of_toNat_eq (by rw [toNat_loByte, e]; rfl))
  have := v.isLt
  apply BitVec.eq_of_toNat_eq
  have := toNat_add_one (by omega) v
  rw [toNat_hiByte, toNat_hiByte]
  simp only [BitVec.ofNat_eq_ofNat] at *
  omega

end Sys2Proof
end

