-- ==== Sys2Proof/Laws/Encoding.lean ====
section
/-! SUPPORT. The operand bytes of a form and the form of operand bytes (spec/30_encoding.md R80-R82), and how the decoder reads a
list of bytes. -/

namespace Sys2Proof

/-- The form a mode makes of two bytes has that mode. -/
@[simp] theorem mode_operandOf (m : Mode) (b1 b2 : Byte) : (operandOf m b1 b2).mode = m := by cases m <;> rfl

/-- A form has as many operand bytes as its mode says (R81). -/
@[simp] theorem length_operandField (o : Operand) : (operandField o).length = operandBytes o.mode := by
  cases o with
  | mem m => cases m <;> rfl
  | imp => rfl
  | acc => rfl
  | imm _ => rfl
  | ind _ => rfl
  | rel _ => rfl

theorem operandBytes_le (m : Mode) : operandBytes m ≤ 2 := by cases m <;> decide

/-- The form whose operand bytes are the given ones is the form itself (R82). A byte the mode does not have does not count. -/
theorem operandOf_operandField (o : Operand) (c : List Byte) :
    operandOf o.mode ((operandField o ++ c).getD 0 0) ((operandField o ++ c).getD 1 0) = o := by
  cases o with
  | mem m => cases m <;> simp [Operand.mode, MemMode.mode, operandField, memModeBytes, operandOf]
  | imp => rfl
  | acc => rfl
  | imm _ => rfl
  | ind a => simp [Operand.mode, operandField, operandOf]
  | rel _ => rfl

/-- A byte the mode does not have is ignored (R82). -/
theorem operandOf_ignores {m : Mode} (b1 b2 : Byte) :
    operandOf m b1 b2 = operandOf m (if operandBytes m = 0 then 0 else b1) (if operandBytes m ≤ 1 then 0 else b2) := by
  cases m <;> rfl

/-- The bytes that a form takes from the head of two bytes (R80). -/
theorem operandField_operandOf (m : Mode) (b1 b2 : Byte) :
    operandField (operandOf m b1 b2) = [b1, b2].take (operandBytes m) := by
  cases m <;> simp [operandOf, operandField, memModeBytes, operandBytes]

/-- Every byte is a row and a cell of the opcode map (R85). -/
theorem byte_cases {P : Byte → Prop} (h : ∀ hi lo : Fin 16, P (BitVec.ofNat 8 (16 * hi.val + lo.val))) (op : Byte) : P op := by
  have hlt : op.toNat < 256 := op.isLt
  have := h ⟨op.toNat / 16, by omega⟩ ⟨op.toNat % 16, by omega⟩
  have e : 16 * (op.toNat / 16) + op.toNat % 16 = op.toNat := by omega
  simpa only [e, BitVec.ofNat_toNat, BitVec.setWidth_eq] using this

/-- A property of the 16 cells of a row, or of the 16 rows. -/
theorem forall_fin16 {P : Fin 16 → Prop} (h0 : P 0) (h1 : P 1) (h2 : P 2) (h3 : P 3) (h4 : P 4) (h5 : P 5) (h6 : P 6)
    (h7 : P 7) (h8 : P 8) (h9 : P 9) (h10 : P 10) (h11 : P 11) (h12 : P 12) (h13 : P 13) (h14 : P 14) (h15 : P 15) :
    ∀ i, P i := by
  rintro ⟨n, hn⟩
  interval_cases n <;> assumption

/-- The cell an opcode byte selects has that opcode byte in the per-mnemonic table: R85 and R86 agree. -/
theorem opcodeOf_instrOf (unoff : List (Byte × Shape)) (op b1 b2 : Byte) : opcodeOf (instrOf unoff op b1 b2) = some op := by
  refine byte_cases (P := fun op => opcodeOf (instrOf unoff op b1 b2) = some op) ?_ op
  apply forall_fin16 <;> apply forall_fin16 <;> rfl

/-- The operand of the instruction an opcode byte selects is the form its mode makes of the operand bytes (R82). -/
theorem operand_instrOf (unoff : List (Byte × Shape)) (op b1 b2 : Byte) :
    (instrOf unoff op b1 b2).operand = operandOf (instrOf unoff op 0 0).mode b1 b2 := by
  refine byte_cases (P := fun op => (instrOf unoff op b1 b2).operand = operandOf (instrOf unoff op 0 0).mode b1 b2) ?_ op
  apply forall_fin16 <;> apply forall_fin16 <;> first
    | rfl
    | exact congrArg (operandOf · b1 b2) (mode_operandOf _ 0 0).symm

/-- The mode depends on the opcode byte alone (R81). -/
theorem mode_instrOf (unoff : List (Byte × Shape)) (op b1 b2 : Byte) :
    (instrOf unoff op b1 b2).mode = (instrOf unoff op 0 0).mode := by
  rw [Instr.mode, operand_instrOf, mode_operandOf]

theorem operandCount_le (unoff : List (Byte × Shape)) (op : Byte) : operandCount unoff op ≤ 2 := operandBytes_le _

end Sys2Proof
end

