-- ==== Sys2Proof/Laws/Flags.lean ====
section
/-! SUPPORT. Reading a flag of a status register that a flag computation wrote. -/

namespace Sys2Proof.Machine

theorem flagBit_inj {f g : Flag} : flagBit f = flagBit g ↔ f = g := by cases f <;> cases g <;> decide

theorem flagBit_lt (f : Flag) : flagBit f < 8 := by cases f <;> decide

theorem getLsbD_flagMask (f g : Flag) : (1#8 <<< flagBit g).getLsbD (flagBit f) = decide (f = g) := by
  cases f <;> cases g <;> decide

/-- A flag written is the flag read, and the others are as before. -/
@[simp] theorem getFlag_setFlag (f g : Flag) (on : Bool) (p : Byte) :
    getFlag f (setFlag g on p) = if f = g then on else getFlag f p := by
  have hlt := flagBit_lt f
  unfold getFlag setFlag
  cases on
  · rw [if_neg Bool.false_ne_true, BitVec.getLsbD_and, BitVec.getLsbD_not, getLsbD_flagMask]
    by_cases h : f = g
    · simp only [h, decide_true, Bool.not_true, Bool.and_false, if_true]
    · simp only [h, decide_false, Bool.not_false, hlt, decide_true, Bool.and_true, if_false]
  · rw [if_pos rfl, BitVec.getLsbD_or, getLsbD_flagMask]
    by_cases h : f = g
    · simp only [h, decide_true, Bool.or_true, if_true]
    · simp only [h, decide_false, Bool.or_false, if_false]

/-- `setNZ` (R10): Z is whether the byte is 0, N is its bit 7, the rest is as before. -/
@[simp] theorem getFlag_setNZ (f : Flag) (v p : Byte) :
    getFlag f (setNZ v p) = if f = .n then bit7 v else if f = .z then v == 0 else getFlag f p := by
  simp [setNZ]

@[simp] theorem getFlag_forceUnused (f : Flag) (p : Byte) :
    getFlag f (forceUnused p) = if f = .u then true else getFlag f p := by
  simp [forceUnused]

/-- The pushed copy of P (R342): B as asked, U set, the rest as it stands. -/
@[simp] theorem getFlag_pushedStatus (f : Flag) (brk : Bool) (p : Byte) :
    getFlag f (pushedStatus brk p) = if f = .b then brk else if f = .u then true else getFlag f p := by
  revert p
  cases f <;> cases brk <;> decide

/-- A status register is its eight flags. -/
theorem status_ext {p q : Byte} (h : ∀ f, getFlag f p = getFlag f q) : p = q := by
  apply BitVec.eq_of_getLsbD_eq
  intro i hi
  have := h .c; have := h .z; have := h .i; have := h .d; have := h .b; have := h .u; have := h .v; have := h .n
  have : i = 0 ∨ i = 1 ∨ i = 2 ∨ i = 3 ∨ i = 4 ∨ i = 5 ∨ i = 6 ∨ i = 7 := by omega
  rcases this with rfl | rfl | rfl | rfl | rfl | rfl | rfl | rfl <;> simp_all [getFlag, flagBit]

end Sys2Proof.Machine
end

