-- ==== Sys2Proof/Laws/Operands.lean ====
section
/-! SUPPORT. What resolving and loading an operand can do (spec/41_addressing_modes.md R120-R136): registers and memory are as
before, and only peripheral registers may have been read. -/

namespace Sys2Proof.Machine

@[simp] theorem resolve_a (m : MemMode) (s : State) : (resolve m s).state.a = s.a := by
  cases m <;> simp [resolve, read16zp]

@[simp] theorem resolve_x (m : MemMode) (s : State) : (resolve m s).state.x = s.x := by
  cases m <;> simp [resolve, read16zp]

@[simp] theorem resolve_y (m : MemMode) (s : State) : (resolve m s).state.y = s.y := by
  cases m <;> simp [resolve, read16zp]

@[simp] theorem resolve_sp (m : MemMode) (s : State) : (resolve m s).state.sp = s.sp := by
  cases m <;> simp [resolve, read16zp]

@[simp] theorem resolve_p (m : MemMode) (s : State) : (resolve m s).state.p = s.p := by
  cases m <;> simp [resolve, read16zp]

@[simp] theorem resolve_pc (m : MemMode) (s : State) : (resolve m s).state.pc = s.pc := by
  cases m <;> simp [resolve, read16zp]

@[simp] theorem resolve_rem (m : MemMode) (s : State) : (resolve m s).state.rem = s.rem := by
  cases m <;> simp [resolve, read16zp]

@[simp] theorem resolve_nmiPending (m : MemMode) (s : State) : (resolve m s).state.nmiPending = s.nmiPending := by
  cases m <;> simp [resolve, read16zp]

@[simp] theorem resolve_irqPending (m : MemMode) (s : State) : (resolve m s).state.irqPending = s.irqPending := by
  cases m <;> simp [resolve, read16zp]

@[simp] theorem resolve_trap (m : MemMode) (s : State) : (resolve m s).state.trap = s.trap := by
  cases m <;> simp [resolve, read16zp]

@[simp] theorem resolve_cycles (m : MemMode) (s : State) : (resolve m s).state.cycles = s.cycles := by
  cases m <;> simp [resolve, read16zp]

@[simp] theorem resolve_periphCycles (m : MemMode) (s : State) : (resolve m s).state.periphCycles = s.periphCycles := by
  cases m <;> simp [resolve, read16zp]

@[simp] theorem resolve_dmaCount (m : MemMode) (s : State) : (resolve m s).state.dmaCount = s.dmaCount := by
  cases m <;> simp [resolve, read16zp]

@[simp] theorem resolve_dmaPage (m : MemMode) (s : State) : (resolve m s).state.dmaPage = s.dmaPage := by
  cases m <;> simp [resolve, read16zp]

@[simp] theorem resolve_dmaLow (m : MemMode) (s : State) : (resolve m s).state.dmaLow = s.dmaLow := by
  cases m <;> simp [resolve, read16zp]

@[simp] theorem resolve_dmaLatch (m : MemMode) (s : State) : (resolve m s).state.dmaLatch = s.dmaLatch := by
  cases m <;> simp [resolve, read16zp]

@[simp] theorem resolve_mem (m : MemMode) (s : State) : (resolve m s).state.mem = s.mem := by
  cases m <;> simp [resolve, read16zp]

@[simp] theorem resolve_ready (m : MemMode) (s : State) : (resolve m s).state.ready = s.ready := by
  cases m <;> simp [resolve, read16zp]

@[simp] theorem resolve_params (m : MemMode) (s : State) : (resolve m s).state.params = s.params := by
  cases m <;> simp [resolve, read16zp]

theorem resolve_nothingStored (m : MemMode) (s : State) : NothingStored s (resolve m s).state := by
  cases m <;> first
    | exact NothingStored.refl s
    | exact readPair_nothingStored _ _ s

/-- Only ABX, ABY and IZY report a crossed page (R121, R136). -/
theorem crossed_only_indexed {m : MemMode} {s : State} (h : (resolve m s).crossed = true) :
    m.mode = .abx ∨ m.mode = .aby ∨ m.mode = .izy := by
  cases m <;> simp_all [resolve, MemMode.mode]

@[simp] theorem loadMem_a (m : MemMode) (s : State) : (loadMem m s).state.a = s.a := by simp [loadMem]

@[simp] theorem loadMem_x (m : MemMode) (s : State) : (loadMem m s).state.x = s.x := by simp [loadMem]

@[simp] theorem loadMem_y (m : MemMode) (s : State) : (loadMem m s).state.y = s.y := by simp [loadMem]

@[simp] theorem loadMem_sp (m : MemMode) (s : State) : (loadMem m s).state.sp = s.sp := by simp [loadMem]

@[simp] theorem loadMem_p (m : MemMode) (s : State) : (loadMem m s).state.p = s.p := by simp [loadMem]

@[simp] theorem loadMem_pc (m : MemMode) (s : State) : (loadMem m s).state.pc = s.pc := by simp [loadMem]

@[simp] theorem loadMem_rem (m : MemMode) (s : State) : (loadMem m s).state.rem = s.rem := by simp [loadMem]

@[simp] theorem loadMem_nmiPending (m : MemMode) (s : State) : (loadMem m s).state.nmiPending = s.nmiPending := by simp [loadMem]

@[simp] theorem loadMem_irqPending (m : MemMode) (s : State) : (loadMem m s).state.irqPending = s.irqPending := by simp [loadMem]

@[simp] theorem loadMem_trap (m : MemMode) (s : State) : (loadMem m s).state.trap = s.trap := by simp [loadMem]

@[simp] theorem loadMem_cycles (m : MemMode) (s : State) : (loadMem m s).state.cycles = s.cycles := by simp [loadMem]

@[simp] theorem loadMem_periphCycles (m : MemMode) (s : State) : (loadMem m s).state.periphCycles = s.periphCycles := by simp [loadMem]

@[simp] theorem loadMem_dmaCount (m : MemMode) (s : State) : (loadMem m s).state.dmaCount = s.dmaCount := by simp [loadMem]

@[simp] theorem loadMem_dmaPage (m : MemMode) (s : State) : (loadMem m s).state.dmaPage = s.dmaPage := by simp [loadMem]

@[simp] theorem loadMem_dmaLow (m : MemMode) (s : State) : (loadMem m s).state.dmaLow = s.dmaLow := by simp [loadMem]

@[simp] theorem loadMem_dmaLatch (m : MemMode) (s : State) : (loadMem m s).state.dmaLatch = s.dmaLatch := by simp [loadMem]

@[simp] theorem loadMem_mem (m : MemMode) (s : State) : (loadMem m s).state.mem = s.mem := by simp [loadMem]

@[simp] theorem loadMem_ready (m : MemMode) (s : State) : (loadMem m s).state.ready = s.ready := by simp [loadMem]

@[simp] theorem loadMem_params (m : MemMode) (s : State) : (loadMem m s).state.params = s.params := by simp [loadMem]

theorem loadMem_nothingStored (m : MemMode) (s : State) : NothingStored s (loadMem m s).state :=
  (resolve_nothingStored m s).trans (busRead_nothingStored _ _)

@[simp] theorem loadOperand_a (o : ReadOperand) (s : State) : (loadOperand o s).state.a = s.a := by
  cases o <;> simp [loadOperand]

@[simp] theorem loadOperand_x (o : ReadOperand) (s : State) : (loadOperand o s).state.x = s.x := by
  cases o <;> simp [loadOperand]

@[simp] theorem loadOperand_y (o : ReadOperand) (s : State) : (loadOperand o s).state.y = s.y := by
  cases o <;> simp [loadOperand]

@[simp] theorem loadOperand_sp (o : ReadOperand) (s : State) : (loadOperand o s).state.sp = s.sp := by
  cases o <;> simp [loadOperand]

@[simp] theorem loadOperand_p (o : ReadOperand) (s : State) : (loadOperand o s).state.p = s.p := by
  cases o <;> simp [loadOperand]

@[simp] theorem loadOperand_pc (o : ReadOperand) (s : State) : (loadOperand o s).state.pc = s.pc := by
  cases o <;> simp [loadOperand]

@[simp] theorem loadOperand_rem (o : ReadOperand) (s : State) : (loadOperand o s).state.rem = s.rem := by
  cases o <;> simp [loadOperand]

@[simp] theorem loadOperand_nmiPending (o : ReadOperand) (s : State) : (loadOperand o s).state.nmiPending = s.nmiPending := by
  cases o <;> simp [loadOperand]

@[simp] theorem loadOperand_irqPending (o : ReadOperand) (s : State) : (loadOperand o s).state.irqPending = s.irqPending := by
  cases o <;> simp [loadOperand]

@[simp] theorem loadOperand_trap (o : ReadOperand) (s : State) : (loadOperand o s).state.trap = s.trap := by
  cases o <;> simp [loadOperand]

@[simp] theorem loadOperand_cycles (o : ReadOperand) (s : State) : (loadOperand o s).state.cycles = s.cycles := by
  cases o <;> simp [loadOperand]

@[simp] theorem loadOperand_periphCycles (o : ReadOperand) (s : State) : (loadOperand o s).state.periphCycles = s.periphCycles := by
  cases o <;> simp [loadOperand]

@[simp] theorem loadOperand_dmaCount (o : ReadOperand) (s : State) : (loadOperand o s).state.dmaCount = s.dmaCount := by
  cases o <;> simp [loadOperand]

@[simp] theorem loadOperand_dmaPage (o : ReadOperand) (s : State) : (loadOperand o s).state.dmaPage = s.dmaPage := by
  cases o <;> simp [loadOperand]

@[simp] theorem loadOperand_dmaLow (o : ReadOperand) (s : State) : (loadOperand o s).state.dmaLow = s.dmaLow := by
  cases o <;> simp [loadOperand]

@[simp] theorem loadOperand_dmaLatch (o : ReadOperand) (s : State) : (loadOperand o s).state.dmaLatch = s.dmaLatch := by
  cases o <;> simp [loadOperand]

@[simp] theorem loadOperand_mem (o : ReadOperand) (s : State) : (loadOperand o s).state.mem = s.mem := by
  cases o <;> simp [loadOperand]

@[simp] theorem loadOperand_ready (o : ReadOperand) (s : State) : (loadOperand o s).state.ready = s.ready := by
  cases o <;> simp [loadOperand]

@[simp] theorem loadOperand_params (o : ReadOperand) (s : State) : (loadOperand o s).state.params = s.params := by
  cases o <;> simp [loadOperand]

theorem loadOperand_nothingStored (o : ReadOperand) (s : State) : NothingStored s (loadOperand o s).state := by
  cases o with
  | imm v => exact NothingStored.refl s
  | mem m => exact loadMem_nothingStored m s

@[simp] theorem resolveOnly_a (o : Operand) (s : State) : (resolveOnly o s).2.a = s.a := by
  cases o <;> simp [resolveOnly, read16bug]

@[simp] theorem resolveOnly_x (o : Operand) (s : State) : (resolveOnly o s).2.x = s.x := by
  cases o <;> simp [resolveOnly, read16bug]

@[simp] theorem resolveOnly_y (o : Operand) (s : State) : (resolveOnly o s).2.y = s.y := by
  cases o <;> simp [resolveOnly, read16bug]

@[simp] theorem resolveOnly_sp (o : Operand) (s : State) : (resolveOnly o s).2.sp = s.sp := by
  cases o <;> simp [resolveOnly, read16bug]

@[simp] theorem resolveOnly_p (o : Operand) (s : State) : (resolveOnly o s).2.p = s.p := by
  cases o <;> simp [resolveOnly, read16bug]

@[simp] theorem resolveOnly_pc (o : Operand) (s : State) : (resolveOnly o s).2.pc = s.pc := by
  cases o <;> simp [resolveOnly, read16bug]

@[simp] theorem resolveOnly_rem (o : Operand) (s : State) : (resolveOnly o s).2.rem = s.rem := by
  cases o <;> simp [resolveOnly, read16bug]

@[simp] theorem resolveOnly_nmiPending (o : Operand) (s : State) : (resolveOnly o s).2.nmiPending = s.nmiPending := by
  cases o <;> simp [resolveOnly, read16bug]

@[simp] theorem resolveOnly_irqPending (o : Operand) (s : State) : (resolveOnly o s).2.irqPending = s.irqPending := by
  cases o <;> simp [resolveOnly, read16bug]

@[simp] theorem resolveOnly_trap (o : Operand) (s : State) : (resolveOnly o s).2.trap = s.trap := by
  cases o <;> simp [resolveOnly, read16bug]

@[simp] theorem resolveOnly_cycles (o : Operand) (s : State) : (resolveOnly o s).2.cycles = s.cycles := by
  cases o <;> simp [resolveOnly, read16bug]

@[simp] theorem resolveOnly_periphCycles (o : Operand) (s : State) : (resolveOnly o s).2.periphCycles = s.periphCycles := by
  cases o <;> simp [resolveOnly, read16bug]

@[simp] theorem resolveOnly_dmaCount (o : Operand) (s : State) : (resolveOnly o s).2.dmaCount = s.dmaCount := by
  cases o <;> simp [resolveOnly, read16bug]

@[simp] theorem resolveOnly_dmaPage (o : Operand) (s : State) : (resolveOnly o s).2.dmaPage = s.dmaPage := by
  cases o <;> simp [resolveOnly, read16bug]

@[simp] theorem resolveOnly_dmaLow (o : Operand) (s : State) : (resolveOnly o s).2.dmaLow = s.dmaLow := by
  cases o <;> simp [resolveOnly, read16bug]

@[simp] theorem resolveOnly_dmaLatch (o : Operand) (s : State) : (resolveOnly o s).2.dmaLatch = s.dmaLatch := by
  cases o <;> simp [resolveOnly, read16bug]

@[simp] theorem resolveOnly_mem (o : Operand) (s : State) : (resolveOnly o s).2.mem = s.mem := by
  cases o <;> simp [resolveOnly, read16bug]

@[simp] theorem resolveOnly_ready (o : Operand) (s : State) : (resolveOnly o s).2.ready = s.ready := by
  cases o <;> simp [resolveOnly, read16bug]

@[simp] theorem resolveOnly_params (o : Operand) (s : State) : (resolveOnly o s).2.params = s.params := by
  cases o <;> simp [resolveOnly, read16bug]

theorem resolveOnly_nothingStored (o : Operand) (s : State) : NothingStored s (resolveOnly o s).2 := by
  cases o with
  | mem m => exact resolve_nothingStored m s
  | ind a => exact readPair_nothingStored _ _ s
  | imp => exact NothingStored.refl s
  | acc => exact NothingStored.refl s
  | imm _ => exact NothingStored.refl s
  | rel _ => exact NothingStored.refl s

@[simp] theorem jumpTarget_a (j : JumpOperand) (s : State) : (jumpTarget j s).2.a = s.a := by
  cases j <;> simp [jumpTarget, read16bug]

@[simp] theorem jumpTarget_x (j : JumpOperand) (s : State) : (jumpTarget j s).2.x = s.x := by
  cases j <;> simp [jumpTarget, read16bug]

@[simp] theorem jumpTarget_y (j : JumpOperand) (s : State) : (jumpTarget j s).2.y = s.y := by
  cases j <;> simp [jumpTarget, read16bug]

@[simp] theorem jumpTarget_sp (j : JumpOperand) (s : State) : (jumpTarget j s).2.sp = s.sp := by
  cases j <;> simp [jumpTarget, read16bug]

@[simp] theorem jumpTarget_p (j : JumpOperand) (s : State) : (jumpTarget j s).2.p = s.p := by
  cases j <;> simp [jumpTarget, read16bug]

@[simp] theorem jumpTarget_pc (j : JumpOperand) (s : State) : (jumpTarget j s).2.pc = s.pc := by
  cases j <;> simp [jumpTarget, read16bug]

@[simp] theorem jumpTarget_rem (j : JumpOperand) (s : State) : (jumpTarget j s).2.rem = s.rem := by
  cases j <;> simp [jumpTarget, read16bug]

@[simp] theorem jumpTarget_nmiPending (j : JumpOperand) (s : State) : (jumpTarget j s).2.nmiPending = s.nmiPending := by
  cases j <;> simp [jumpTarget, read16bug]

@[simp] theorem jumpTarget_irqPending (j : JumpOperand) (s : State) : (jumpTarget j s).2.irqPending = s.irqPending := by
  cases j <;> simp [jumpTarget, read16bug]

@[simp] theorem jumpTarget_trap (j : JumpOperand) (s : State) : (jumpTarget j s).2.trap = s.trap := by
  cases j <;> simp [jumpTarget, read16bug]

@[simp] theorem jumpTarget_cycles (j : JumpOperand) (s : State) : (jumpTarget j s).2.cycles = s.cycles := by
  cases j <;> simp [jumpTarget, read16bug]

@[simp] theorem jumpTarget_periphCycles (j : JumpOperand) (s : State) : (jumpTarget j s).2.periphCycles = s.periphCycles := by
  cases j <;> simp [jumpTarget, read16bug]

@[simp] theorem jumpTarget_dmaCount (j : JumpOperand) (s : State) : (jumpTarget j s).2.dmaCount = s.dmaCount := by
  cases j <;> simp [jumpTarget, read16bug]

@[simp] theorem jumpTarget_dmaPage (j : JumpOperand) (s : State) : (jumpTarget j s).2.dmaPage = s.dmaPage := by
  cases j <;> simp [jumpTarget, read16bug]

@[simp] theorem jumpTarget_dmaLow (j : JumpOperand) (s : State) : (jumpTarget j s).2.dmaLow = s.dmaLow := by
  cases j <;> simp [jumpTarget, read16bug]

@[simp] theorem jumpTarget_dmaLatch (j : JumpOperand) (s : State) : (jumpTarget j s).2.dmaLatch = s.dmaLatch := by
  cases j <;> simp [jumpTarget, read16bug]

@[simp] theorem jumpTarget_mem (j : JumpOperand) (s : State) : (jumpTarget j s).2.mem = s.mem := by
  cases j <;> simp [jumpTarget, read16bug]

@[simp] theorem jumpTarget_ready (j : JumpOperand) (s : State) : (jumpTarget j s).2.ready = s.ready := by
  cases j <;> simp [jumpTarget, read16bug]

@[simp] theorem jumpTarget_params (j : JumpOperand) (s : State) : (jumpTarget j s).2.params = s.params := by
  cases j <;> simp [jumpTarget, read16bug]

theorem jumpTarget_nothingStored (j : JumpOperand) (s : State) : NothingStored s (jumpTarget j s).2 := by
  cases j with
  | abs a => exact NothingStored.refl s
  | ind a => exact readPair_nothingStored _ _ s

/-- `backing` depends on the session's map only. -/
theorem backing_congr {s t : State} (h : t.params = s.params) (addr : Addr) : backing t addr = backing s addr := by
  unfold backing; rw [h]

/-- Loading a plain byte: the byte stored at the effective address (R135). -/
theorem loadMem_value_of_backing {m : MemMode} {s : State} {i : Nat} (h : backing s (resolve m s).ea = some i) :
    (loadMem m s).value = s.mem.read i := by
  have h' : backing (resolve m s).state (resolve m s).ea = some i := by rw [backing_congr (resolve_params m s)]; exact h
  simp [loadMem, busRead_of_backing h']

/-- A read does not look at P. -/
theorem busRead_withP (addr : Addr) (q : Byte) (s : State) :
    busRead addr { s with p := q } = ((busRead addr s).1, { (busRead addr s).2 with p := q }) := by
  unfold busRead; simp only []; split <;> rfl

theorem readPair_withP (lo hi : Addr) (q : Byte) (s : State) :
    readPair lo hi { s with p := q } = ((readPair lo hi s).1, { (readPair lo hi s).2 with p := q }) := by
  simp only [readPair, busRead_withP]

theorem resolve_withP (m : MemMode) (q : Byte) (s : State) :
    resolve m { s with p := q } =
      ⟨(resolve m s).ea, (resolve m s).crossed, { (resolve m s).state with p := q }⟩ := by
  cases m <;> simp only [resolve, read16zp, readPair_withP]

theorem loadMem_withP (m : MemMode) (q : Byte) (s : State) :
    loadMem m { s with p := q } =
      ⟨(loadMem m s).value, (loadMem m s).crossed, { (loadMem m s).state with p := q }⟩ := by
  simp only [loadMem, resolve_withP, busRead_withP]

/-- An operand does not depend on P. -/
theorem loadOperand_withP (o : ReadOperand) (q : Byte) (s : State) :
    loadOperand o { s with p := q } =
      ⟨(loadOperand o s).value, (loadOperand o s).crossed, { (loadOperand o s).state with p := q }⟩ := by
  cases o <;> simp only [loadOperand, loadMem_withP]

end Sys2Proof.Machine
end

