-- ==== Sys2Proof/Laws/Stack.lean ====
section
/-! SUPPORT. What the stack operations and the interrupt sequence can do (spec/20_memory.md R74, spec/60_exceptions.md R342,
R351): the fields they keep, their whole effect in the terms of Safety.lean, and their result on plain bytes. -/

namespace Sys2Proof.Machine

@[simp] theorem pushWord_a (v : Addr) (s : State) : (pushWord v s).a = s.a := by simp [pushWord]

@[simp] theorem pushWord_x (v : Addr) (s : State) : (pushWord v s).x = s.x := by simp [pushWord]

@[simp] theorem pushWord_y (v : Addr) (s : State) : (pushWord v s).y = s.y := by simp [pushWord]

@[simp] theorem pushWord_p (v : Addr) (s : State) : (pushWord v s).p = s.p := by simp [pushWord]

@[simp] theorem pushWord_pc (v : Addr) (s : State) : (pushWord v s).pc = s.pc := by simp [pushWord]

@[simp] theorem pushWord_rem (v : Addr) (s : State) : (pushWord v s).rem = s.rem := by simp [pushWord]

@[simp] theorem pushWord_nmiPending (v : Addr) (s : State) : (pushWord v s).nmiPending = s.nmiPending := by simp [pushWord]

@[simp] theorem pushWord_irqPending (v : Addr) (s : State) : (pushWord v s).irqPending = s.irqPending := by simp [pushWord]

@[simp] theorem pushWord_trap (v : Addr) (s : State) : (pushWord v s).trap = s.trap := by simp [pushWord]

@[simp] theorem pushWord_cycles (v : Addr) (s : State) : (pushWord v s).cycles = s.cycles := by simp [pushWord]

@[simp] theorem pushWord_periphCycles (v : Addr) (s : State) : (pushWord v s).periphCycles = s.periphCycles := by simp [pushWord]

@[simp] theorem pushWord_dmaLatch (v : Addr) (s : State) : (pushWord v s).dmaLatch = s.dmaLatch := by simp [pushWord]

@[simp] theorem pushWord_ready (v : Addr) (s : State) : (pushWord v s).ready = s.ready := by simp [pushWord]

@[simp] theorem pushWord_params (v : Addr) (s : State) : (pushWord v s).params = s.params := by simp [pushWord]

@[simp] theorem pushWord_draws (v : Addr) (s : State) : (pushWord v s).draws = s.draws := by simp [pushWord]

@[simp] theorem pushWord_sp (v : Addr) (s : State) : (pushWord v s).sp = s.sp - 2 := by
  simp only [pushWord, push_sp]; bv_omega

@[simp] theorem pullWord_a (s : State) : (pullWord s).2.a = s.a := by simp [pullWord]

@[simp] theorem pullWord_x (s : State) : (pullWord s).2.x = s.x := by simp [pullWord]

@[simp] theorem pullWord_y (s : State) : (pullWord s).2.y = s.y := by simp [pullWord]

@[simp] theorem pullWord_p (s : State) : (pullWord s).2.p = s.p := by simp [pullWord]

@[simp] theorem pullWord_pc (s : State) : (pullWord s).2.pc = s.pc := by simp [pullWord]

@[simp] theorem pullWord_rem (s : State) : (pullWord s).2.rem = s.rem := by simp [pullWord]

@[simp] theorem pullWord_nmiPending (s : State) : (pullWord s).2.nmiPending = s.nmiPending := by simp [pullWord]

@[simp] theorem pullWord_irqPending (s : State) : (pullWord s).2.irqPending = s.irqPending := by simp [pullWord]

@[simp] theorem pullWord_trap (s : State) : (pullWord s).2.trap = s.trap := by simp [pullWord]

@[simp] theorem pullWord_cycles (s : State) : (pullWord s).2.cycles = s.cycles := by simp [pullWord]

@[simp] theorem pullWord_periphCycles (s : State) : (pullWord s).2.periphCycles = s.periphCycles := by simp [pullWord]

@[simp] theorem pullWord_dmaCount (s : State) : (pullWord s).2.dmaCount = s.dmaCount := by simp [pullWord]

@[simp] theorem pullWord_dmaPage (s : State) : (pullWord s).2.dmaPage = s.dmaPage := by simp [pullWord]

@[simp] theorem pullWord_dmaLow (s : State) : (pullWord s).2.dmaLow = s.dmaLow := by simp [pullWord]

@[simp] theorem pullWord_dmaLatch (s : State) : (pullWord s).2.dmaLatch = s.dmaLatch := by simp [pullWord]

@[simp] theorem pullWord_mem (s : State) : (pullWord s).2.mem = s.mem := by simp [pullWord]

@[simp] theorem pullWord_ready (s : State) : (pullWord s).2.ready = s.ready := by simp [pullWord]

@[simp] theorem pullWord_params (s : State) : (pullWord s).2.params = s.params := by simp [pullWord]

@[simp] theorem pullWord_sp (s : State) : (pullWord s).2.sp = s.sp + 2 := by
  simp only [pullWord, pull_sp]; bv_omega

/-- Pulling a word stores nothing. -/
theorem pullWord_nothingStored (s : State) : NothingStored s (pullWord s).2 :=
  (pull_nothingStored s).trans (pull_nothingStored _)

/-- Pushing a word writes its high byte, then its low byte (R61, R74). -/
theorem pushWord_bytesWritten (v : Addr) (s : State) :
    BytesWritten [(stackAddr s.sp, hiByte v), (stackAddr (s.sp - 1), loByte v)] s (pushWord v s) := by
  refine ⟨push (hiByte v) s, push_byteWritten _ _, by simp [SameSession], pushWord v s, ?_, by simp [SameSession],
    fun _ => rfl, ⟨rfl, rfl, rfl, rfl⟩, rfl, rfl⟩
  have h := push_byteWritten (loByte v) (push (hiByte v) s)
  rwa [push_sp] at h

/-- A push of a plain byte of the stack (R74). -/
theorem push_of_backing {s : State} {i : Nat} (h : backing s (stackAddr s.sp) = some i) (v : Byte) :
    push v s = { s with mem := s.mem.write i v, sp := s.sp - 1 } := by
  unfold push busWrite
  unfold backing at h
  cases hd : deviceAt s.params.map (stackAddr s.sp) <;> rw [hd] at h <;> simp_all [storeIndex]

/-- A push of a word onto two plain bytes of the stack. -/
theorem pushWord_of_backing {s : State} {i j : Nat} (hi : backing s (stackAddr s.sp) = some i)
    (hj : backing s (stackAddr (s.sp - 1)) = some j) (v : Addr) :
    pushWord v s = { s with mem := (s.mem.write i (hiByte v)).write j (loByte v), sp := s.sp - 2 } := by
  have hj' : backing (push (hiByte v) s) (stackAddr (push (hiByte v) s).sp) = some j := by
    rw [push_sp, backing_congr (push_params _ _)]; exact hj
  have e : s.sp - 1 - 1 = s.sp - 2 := by bv_omega
  rw [pushWord, push_of_backing hj', push_of_backing hi]
  simp only [e]

/-- A pull of a word from two plain bytes of the stack. -/
theorem pullWord_of_backing {s : State} {i j : Nat} (hi : backing s (stackAddr (s.sp + 1)) = some i)
    (hj : backing s (stackAddr (s.sp + 2)) = some j) :
    pullWord s = (word (s.mem.read j) (s.mem.read i), { s with sp := s.sp + 2 }) := by
  have e : s.sp + 1 + 1 = s.sp + 2 := by bv_omega
  have hj' : backing { s with sp := s.sp + 1 } (stackAddr (s.sp + 1 + 1)) = some j := by
    rw [e, backing_congr (t := { s with sp := s.sp + 1 }) (s := s) rfl]; exact hj
  rw [pullWord, pull_of_backing hi]
  simp only []
  rw [pull_of_backing (s := { s with sp := s.sp + 1 }) hj']
  simp only [e]

@[simp] theorem read16_params (addr : Addr) (s : State) : (read16 addr s).2.params = s.params := readPair_params _ _ s

@[simp] theorem read16_a (addr : Addr) (s : State) : (read16 addr s).2.a = s.a := readPair_a _ _ s

@[simp] theorem read16_x (addr : Addr) (s : State) : (read16 addr s).2.x = s.x := readPair_x _ _ s

@[simp] theorem read16_y (addr : Addr) (s : State) : (read16 addr s).2.y = s.y := readPair_y _ _ s

@[simp] theorem read16_p (addr : Addr) (s : State) : (read16 addr s).2.p = s.p := readPair_p _ _ s

@[simp] theorem read16_pc (addr : Addr) (s : State) : (read16 addr s).2.pc = s.pc := readPair_pc _ _ s

@[simp] theorem read16_rem (addr : Addr) (s : State) : (read16 addr s).2.rem = s.rem := readPair_rem _ _ s

@[simp] theorem read16_nmiPending (addr : Addr) (s : State) : (read16 addr s).2.nmiPending = s.nmiPending := readPair_nmiPending _ _ s

@[simp] theorem read16_irqPending (addr : Addr) (s : State) : (read16 addr s).2.irqPending = s.irqPending := readPair_irqPending _ _ s

@[simp] theorem read16_trap (addr : Addr) (s : State) : (read16 addr s).2.trap = s.trap := readPair_trap _ _ s

@[simp] theorem read16_cycles (addr : Addr) (s : State) : (read16 addr s).2.cycles = s.cycles := readPair_cycles _ _ s

@[simp] theorem read16_periphCycles (addr : Addr) (s : State) : (read16 addr s).2.periphCycles = s.periphCycles := readPair_periphCycles _ _ s

@[simp] theorem read16_dmaCount (addr : Addr) (s : State) : (read16 addr s).2.dmaCount = s.dmaCount := readPair_dmaCount _ _ s

@[simp] theorem read16_dmaPage (addr : Addr) (s : State) : (read16 addr s).2.dmaPage = s.dmaPage := readPair_dmaPage _ _ s

@[simp] theorem read16_dmaLow (addr : Addr) (s : State) : (read16 addr s).2.dmaLow = s.dmaLow := readPair_dmaLow _ _ s

@[simp] theorem read16_dmaLatch (addr : Addr) (s : State) : (read16 addr s).2.dmaLatch = s.dmaLatch := readPair_dmaLatch _ _ s

@[simp] theorem read16_mem (addr : Addr) (s : State) : (read16 addr s).2.mem = s.mem := readPair_mem _ _ s

@[simp] theorem read16_ready (addr : Addr) (s : State) : (read16 addr s).2.ready = s.ready := readPair_ready _ _ s

@[simp] theorem read16_sp (addr : Addr) (s : State) : (read16 addr s).2.sp = s.sp := readPair_sp _ _ s

@[simp] theorem interruptSequence_a (ret : Addr) (b : Bool) (vec : Addr) (s : State) :
    (interruptSequence ret b vec s).a = s.a := by simp [interruptSequence]

@[simp] theorem interruptSequence_x (ret : Addr) (b : Bool) (vec : Addr) (s : State) :
    (interruptSequence ret b vec s).x = s.x := by simp [interruptSequence]

@[simp] theorem interruptSequence_y (ret : Addr) (b : Bool) (vec : Addr) (s : State) :
    (interruptSequence ret b vec s).y = s.y := by simp [interruptSequence]

@[simp] theorem interruptSequence_rem (ret : Addr) (b : Bool) (vec : Addr) (s : State) :
    (interruptSequence ret b vec s).rem = s.rem := by simp [interruptSequence]

@[simp] theorem interruptSequence_nmiPending (ret : Addr) (b : Bool) (vec : Addr) (s : State) :
    (interruptSequence ret b vec s).nmiPending = s.nmiPending := by simp [interruptSequence]

@[simp] theorem interruptSequence_irqPending (ret : Addr) (b : Bool) (vec : Addr) (s : State) :
    (interruptSequence ret b vec s).irqPending = s.irqPending := by simp [interruptSequence]

@[simp] theorem interruptSequence_trap (ret : Addr) (b : Bool) (vec : Addr) (s : State) :
    (interruptSequence ret b vec s).trap = s.trap := by simp [interruptSequence]

@[simp] theorem interruptSequence_cycles (ret : Addr) (b : Bool) (vec : Addr) (s : State) :
    (interruptSequence ret b vec s).cycles = s.cycles := by simp [interruptSequence]

@[simp] theorem interruptSequence_periphCycles (ret : Addr) (b : Bool) (vec : Addr) (s : State) :
    (interruptSequence ret b vec s).periphCycles = s.periphCycles := by simp [interruptSequence]

@[simp] theorem interruptSequence_dmaLatch (ret : Addr) (b : Bool) (vec : Addr) (s : State) :
    (interruptSequence ret b vec s).dmaLatch = s.dmaLatch := by simp [interruptSequence]

@[simp] theorem interruptSequence_ready (ret : Addr) (b : Bool) (vec : Addr) (s : State) :
    (interruptSequence ret b vec s).ready = s.ready := by simp [interruptSequence]

@[simp] theorem interruptSequence_params (ret : Addr) (b : Bool) (vec : Addr) (s : State) :
    (interruptSequence ret b vec s).params = s.params := by simp [interruptSequence]

@[simp] theorem returnFromInterrupt_a (s : State) : (returnFromInterrupt s).a = s.a := by
  simp [returnFromInterrupt]

@[simp] theorem returnFromInterrupt_x (s : State) : (returnFromInterrupt s).x = s.x := by
  simp [returnFromInterrupt]

@[simp] theorem returnFromInterrupt_y (s : State) : (returnFromInterrupt s).y = s.y := by
  simp [returnFromInterrupt]

@[simp] theorem returnFromInterrupt_rem (s : State) : (returnFromInterrupt s).rem = s.rem := by
  simp [returnFromInterrupt]

@[simp] theorem returnFromInterrupt_nmiPending (s : State) : (returnFromInterrupt s).nmiPending = s.nmiPending := by
  simp [returnFromInterrupt]

@[simp] theorem returnFromInterrupt_irqPending (s : State) : (returnFromInterrupt s).irqPending = s.irqPending := by
  simp [returnFromInterrupt]

@[simp] theorem returnFromInterrupt_trap (s : State) : (returnFromInterrupt s).trap = s.trap := by
  simp [returnFromInterrupt]

@[simp] theorem returnFromInterrupt_cycles (s : State) : (returnFromInterrupt s).cycles = s.cycles := by
  simp [returnFromInterrupt]

@[simp] theorem returnFromInterrupt_periphCycles (s : State) : (returnFromInterrupt s).periphCycles = s.periphCycles := by
  simp [returnFromInterrupt]

@[simp] theorem returnFromInterrupt_dmaCount (s : State) : (returnFromInterrupt s).dmaCount = s.dmaCount := by
  simp [returnFromInterrupt]

@[simp] theorem returnFromInterrupt_dmaPage (s : State) : (returnFromInterrupt s).dmaPage = s.dmaPage := by
  simp [returnFromInterrupt]

@[simp] theorem returnFromInterrupt_dmaLow (s : State) : (returnFromInterrupt s).dmaLow = s.dmaLow := by
  simp [returnFromInterrupt]

@[simp] theorem returnFromInterrupt_dmaLatch (s : State) : (returnFromInterrupt s).dmaLatch = s.dmaLatch := by
  simp [returnFromInterrupt]

@[simp] theorem returnFromInterrupt_mem (s : State) : (returnFromInterrupt s).mem = s.mem := by
  simp [returnFromInterrupt]

@[simp] theorem returnFromInterrupt_ready (s : State) : (returnFromInterrupt s).ready = s.ready := by
  simp [returnFromInterrupt]

@[simp] theorem returnFromInterrupt_params (s : State) : (returnFromInterrupt s).params = s.params := by
  simp [returnFromInterrupt]

@[simp] theorem returnFromInterrupt_sp (s : State) : (returnFromInterrupt s).sp = s.sp + 3 := by
  simp only [returnFromInterrupt, pullWord_sp, pull_sp]; bv_omega

@[simp] theorem returnFromInterrupt_p (s : State) : (returnFromInterrupt s).p = (pull s).1 := by
  simp [returnFromInterrupt]

@[simp] theorem interruptSequence_sp (ret : Addr) (b : Bool) (vec : Addr) (s : State) :
    (interruptSequence ret b vec s).sp = s.sp - 3 := by
  simp only [interruptSequence, read16_sp, push_sp, pushWord_sp]; bv_omega

@[simp] theorem interruptSequence_p (ret : Addr) (b : Bool) (vec : Addr) (s : State) :
    (interruptSequence ret b vec s).p = setFlag .i true s.p := by simp [interruptSequence]

@[simp] theorem nmiSequence_pc (s : State) : (nmiSequence s).pc = (interruptSequence s.pc false nmiVector s).pc := rfl
@[simp] theorem nmiSequence_dmaCount (s : State) : (nmiSequence s).dmaCount = (interruptSequence s.pc false nmiVector s).dmaCount := rfl
@[simp] theorem nmiSequence_dmaPage (s : State) : (nmiSequence s).dmaPage = (interruptSequence s.pc false nmiVector s).dmaPage := rfl
@[simp] theorem nmiSequence_dmaLow (s : State) : (nmiSequence s).dmaLow = (interruptSequence s.pc false nmiVector s).dmaLow := rfl
@[simp] theorem nmiSequence_mem (s : State) : (nmiSequence s).mem = (interruptSequence s.pc false nmiVector s).mem := rfl
@[simp] theorem nmiSequence_draws (s : State) : (nmiSequence s).draws = (interruptSequence s.pc false nmiVector s).draws := rfl
@[simp] theorem nmiSequence_events (s : State) : (nmiSequence s).events = (interruptSequence s.pc false nmiVector s).events := rfl
@[simp] theorem nmiSequence_a (s : State) : (nmiSequence s).a = s.a := by simp [nmiSequence]
@[simp] theorem nmiSequence_x (s : State) : (nmiSequence s).x = s.x := by simp [nmiSequence]
@[simp] theorem nmiSequence_y (s : State) : (nmiSequence s).y = s.y := by simp [nmiSequence]
@[simp] theorem nmiSequence_sp (s : State) : (nmiSequence s).sp = s.sp - 3 := by simp [nmiSequence]
@[simp] theorem nmiSequence_p (s : State) : (nmiSequence s).p = setFlag .i true s.p := by simp [nmiSequence]
@[simp] theorem nmiSequence_rem (s : State) : (nmiSequence s).rem = s.rem := by simp [nmiSequence]
@[simp] theorem nmiSequence_nmiPending (s : State) : (nmiSequence s).nmiPending = false := rfl
@[simp] theorem nmiSequence_irqPending (s : State) : (nmiSequence s).irqPending = s.irqPending := by simp [nmiSequence]
@[simp] theorem nmiSequence_trap (s : State) : (nmiSequence s).trap = s.trap := by simp [nmiSequence]
@[simp] theorem nmiSequence_cycles (s : State) : (nmiSequence s).cycles = s.cycles := by simp [nmiSequence]
@[simp] theorem nmiSequence_periphCycles (s : State) : (nmiSequence s).periphCycles = s.periphCycles := by simp [nmiSequence]
@[simp] theorem nmiSequence_dmaLatch (s : State) : (nmiSequence s).dmaLatch = s.dmaLatch := by simp [nmiSequence]
@[simp] theorem nmiSequence_ready (s : State) : (nmiSequence s).ready = s.ready := by simp [nmiSequence]
@[simp] theorem nmiSequence_params (s : State) : (nmiSequence s).params = s.params := by simp [nmiSequence]

@[simp] theorem irqSequence_pc (s : State) : (irqSequence s).pc = (interruptSequence s.pc false irqVector s).pc := rfl
@[simp] theorem irqSequence_dmaCount (s : State) : (irqSequence s).dmaCount = (interruptSequence s.pc false irqVector s).dmaCount := rfl
@[simp] theorem irqSequence_dmaPage (s : State) : (irqSequence s).dmaPage = (interruptSequence s.pc false irqVector s).dmaPage := rfl
@[simp] theorem irqSequence_dmaLow (s : State) : (irqSequence s).dmaLow = (interruptSequence s.pc false irqVector s).dmaLow := rfl
@[simp] theorem irqSequence_mem (s : State) : (irqSequence s).mem = (interruptSequence s.pc false irqVector s).mem := rfl
@[simp] theorem irqSequence_draws (s : State) : (irqSequence s).draws = (interruptSequence s.pc false irqVector s).draws := rfl
@[simp] theorem irqSequence_events (s : State) : (irqSequence s).events = (interruptSequence s.pc false irqVector s).events := rfl
@[simp] theorem irqSequence_a (s : State) : (irqSequence s).a = s.a := by simp [irqSequence]
@[simp] theorem irqSequence_x (s : State) : (irqSequence s).x = s.x := by simp [irqSequence]
@[simp] theorem irqSequence_y (s : State) : (irqSequence s).y = s.y := by simp [irqSequence]
@[simp] theorem irqSequence_sp (s : State) : (irqSequence s).sp = s.sp - 3 := by simp [irqSequence]
@[simp] theorem irqSequence_p (s : State) : (irqSequence s).p = setFlag .i true s.p := by simp [irqSequence]
@[simp] theorem irqSequence_rem (s : State) : (irqSequence s).rem = s.rem := by simp [irqSequence]
@[simp] theorem irqSequence_nmiPending (s : State) : (irqSequence s).nmiPending = s.nmiPending := by simp [irqSequence]
@[simp] theorem irqSequence_irqPending (s : State) : (irqSequence s).irqPending = false := rfl
@[simp] theorem irqSequence_trap (s : State) : (irqSequence s).trap = s.trap := by simp [irqSequence]
@[simp] theorem irqSequence_cycles (s : State) : (irqSequence s).cycles = s.cycles := by simp [irqSequence]
@[simp] theorem irqSequence_periphCycles (s : State) : (irqSequence s).periphCycles = s.periphCycles := by simp [irqSequence]
@[simp] theorem irqSequence_dmaLatch (s : State) : (irqSequence s).dmaLatch = s.dmaLatch := by simp [irqSequence]
@[simp] theorem irqSequence_ready (s : State) : (irqSequence s).ready = s.ready := by simp [irqSequence]
@[simp] theorem irqSequence_params (s : State) : (irqSequence s).params = s.params := by simp [irqSequence]

/-- The return from an interrupt stores nothing. -/
theorem returnFromInterrupt_nothingStored (s : State) : NothingStored s (returnFromInterrupt s) :=
  (pull_nothingStored s).trans (pullWord_nothingStored { (pull s).2 with p := (pull s).1 })

/-- The three bytes an interrupt pushes (R342). -/
theorem interrupt_bytesWritten (ret : Addr) (b : Bool) (s : State) :
    BytesWritten [(stackAddr s.sp, hiByte ret), (stackAddr (s.sp - 1), loByte ret),
      (stackAddr (s.sp - 2), pushedStatus b s.p)] s (push (pushedStatus b s.p) (pushWord ret s)) := by
  have hw := push_byteWritten (loByte ret) (push (hiByte ret) s)
  have hp := push_byteWritten (pushedStatus b s.p) (pushWord ret s)
  rw [push_sp] at hw
  rw [pushWord_sp] at hp
  exact ⟨_, push_byteWritten (hiByte ret) s, by simp [SameSession], _, hw, by simp [SameSession], _, hp,
    by simp [SameSession, pushWord], fun _ => rfl, ⟨rfl, rfl, rfl, rfl⟩, rfl, rfl⟩

/-- The interrupt sequence, whole (R342). -/
theorem interruptSequence_enters (ret : Addr) (b : Bool) (vec : Addr) (s : State) :
    EntersInterrupt ret b vec s (interruptSequence ret b vec s) := by
  obtain ⟨-, hd, hm, hr⟩ := readPair_nothingStored vec (vec + 1) (push (pushedStatus b s.p) (pushWord ret s))
  refine ⟨⟨_, interrupt_bytesWritten ret b s, by simp [SameSession], rfl, hm, hd, hr⟩, by simp, by simp, by simp, by simp,
    by simp, by simp +contextual⟩

/-- What `EntersInterrupt` says of the state after it does not depend on how that state is written. -/
theorem EntersInterrupt.congr {ret : Addr} {b : Bool} {vec : Addr} {s t t' : State} (h : EntersInterrupt ret b vec s t)
    (hpc : t'.pc = t.pc) (hsp : t'.sp = t.sp) (ha : t'.a = t.a) (hx : t'.x = t.x) (hy : t'.y = t.y)
    (hp : ∀ f, f ≠ .u → getFlag f t'.p = getFlag f t.p) (hm : t'.mem = t.mem) (hd : SameDma t t')
    (he : t'.events = t.events) (hw : t'.draws = t.draws) : EntersInterrupt ret b vec s t' := by
  obtain ⟨⟨u, h1, h2, h3, h4, ⟨d1, d2, d3, d4⟩, l, e1, e2, e3⟩, h6, h7, h8, h9, h10, h11⟩ := h
  obtain ⟨g1, g2, g3, g4⟩ := hd
  refine ⟨⟨u, h1, h2, hpc.trans h3, fun i => by rw [hm]; exact h4 i, ⟨g1.trans d1, g2.trans d2, g3.trans d3, g4.trans d4⟩,
    l, he.trans e1, hw.trans e2, e3⟩, hsp.trans h6, ha.trans h7, hx.trans h8, hy.trans h9,
    (hp .i (by simp)).trans h10, fun f hi hu => (hp f hu).trans (h11 f hi hu)⟩

/-- The interrupt sequence keeps the canonical form of the store. -/
theorem interruptSequence_wf {s : State} (h : s.mem.wf = true) (ret : Addr) (b : Bool) (vec : Addr) :
    (interruptSequence ret b vec s).mem.wf = true := by
  have h3 := push_wf (push_wf (push_wf h (hiByte ret)) (loByte ret)) (pushedStatus b s.p)
  simpa [interruptSequence, pushWord] using h3

/-- The return from an interrupt over three plain bytes of the stack (R351). -/
theorem returnFromInterrupt_of_backing {s : State} {i j k : Nat} (hi : backing s (stackAddr (s.sp + 1)) = some i)
    (hj : backing s (stackAddr (s.sp + 2)) = some j) (hk : backing s (stackAddr (s.sp + 3)) = some k) :
    returnFromInterrupt s =
      { s with p := s.mem.read i, sp := s.sp + 3, pc := word (s.mem.read k) (s.mem.read j) } := by
  have e1 : s.sp + 1 + 1 = s.sp + 2 := by bv_omega
  have e2 : s.sp + 1 + 2 = s.sp + 3 := by bv_omega
  rw [returnFromInterrupt, pull_of_backing hi]
  simp only []
  rw [pullWord_of_backing (s := { s with sp := s.sp + 1, p := s.mem.read i }) (i := j) (j := k)]
  · simp only [e2]
  · simp only [e1]; exact hj
  · simp only [e2]; exact hk

/-- A pull does not look at P. -/
theorem pull_withP (q : Byte) (s : State) : pull { s with p := q } = ((pull s).1, { (pull s).2 with p := q }) :=
  busRead_withP (stackAddr (s.sp + 1)) q { s with sp := s.sp + 1 }

/-- A 16-bit read looks at neither SP nor P. -/
theorem read16_withRegisters (addr : Addr) (q sp : Byte) (s : State) :
    read16 addr { s with sp := sp, p := q } = ((read16 addr s).1, { (read16 addr s).2 with sp := sp, p := q }) := by
  have h : ∀ a t, busRead a { t with sp := sp, p := q } = ((busRead a t).1, { (busRead a t).2 with sp := sp, p := q }) := by
    intro a t; unfold busRead; simp only []; split <;> rfl
  simp only [read16, readPair, h]

theorem pullWord_withP (q : Byte) (s : State) :
    pullWord { s with p := q } = ((pullWord s).1, { (pullWord s).2 with p := q }) := by
  simp only [pullWord, pull_withP]

@[simp] theorem returnFromInterrupt_pc (s : State) : (returnFromInterrupt s).pc = (pullWord (pull s).2).1 := by
  simp only [returnFromInterrupt, pullWord_withP]

/-- The interrupt sequence over three plain bytes of the stack (R342). -/
theorem interruptSequence_mem_of_backing {s : State} {i j k : Nat} (hi : backing s (stackAddr s.sp) = some i)
    (hj : backing s (stackAddr (s.sp - 1)) = some j) (hk : backing s (stackAddr (s.sp - 2)) = some k) (ret : Addr)
    (b : Bool) (vec : Addr) :
    (interruptSequence ret b vec s).mem =
      ((s.mem.write i (hiByte ret)).write j (loByte ret)).write k (pushedStatus b s.p) := by
  have hk' : backing (pushWord ret s) (stackAddr (pushWord ret s).sp) = some k := by
    rw [pushWord_sp, backing_congr (pushWord_params _ _)]; exact hk
  simp only [interruptSequence, read16_mem]
  rw [push_of_backing hk', pushWord_of_backing hi hj]

end Sys2Proof.Machine
end

