-- ==== Sys2Proof/Laws/Exec.lean ====
section
/-! SUPPORT. What any part of an instruction can do: it keeps the session, the canonical form of the store and the DMA latch, and it
leaves the DMA countdown as it was or freshly armed; and every shared operation that ends an instruction completes. -/

namespace Sys2Proof.Machine

/-- What running a part of an instruction from `s` to `t` can do to the state outside the registers. -/
structure Ran (s t : State) : Prop where
  session : SameSession s t
  latch : t.dmaLatch = s.dmaLatch
  wf : s.mem.wf = true → t.mem.wf = true
  dma : (t.dmaCount = s.dmaCount ∧ t.dmaLow = s.dmaLow) ∨ (t.dmaCount = 513 + s.cycles % 2 ∧ t.dmaLow = 0)

theorem Ran.refl (s : State) : Ran s s := ⟨by simp [SameSession], rfl, id, .inl ⟨rfl, rfl⟩⟩

theorem Ran.trans {s t u : State} (h1 : Ran s t) (h2 : Ran t u) : Ran s u := by
  obtain ⟨⟨a1, a2, a3, a4, a5, a6, a7⟩, l1, w1, d1⟩ := h1
  obtain ⟨⟨b1, b2, b3, b4, b5, b6, b7⟩, l2, w2, d2⟩ := h2
  refine ⟨⟨b1.trans a1, b2.trans a2, b3.trans a3, b4.trans a4, b5.trans a5, b6.trans a6, b7.trans a7⟩, l2.trans l1,
    w2 ∘ w1, ?_⟩
  rcases d2 with ⟨e, f⟩ | ⟨e, f⟩
  · rw [e, f]; exact d1
  · rw [e, f, a4]; exact .inr ⟨rfl, rfl⟩

/-- The registers are not spoken of, so new ones change nothing. -/
theorem Ran.withRegisters {s t : State} (h : Ran s t) (a x y sp p : Byte) (pc : Addr) (rem : Nat) :
    Ran s { t with a := a, x := x, y := y, sp := sp, p := p, pc := pc, rem := rem } :=
  ⟨h.session, h.latch, h.wf, h.dma⟩

theorem busRead_ran (addr : Addr) (s : State) : Ran s (busRead addr s).2 :=
  ⟨by simp [SameSession], by simp, by simp, .inl (by simp)⟩

theorem busWrite_ran (addr : Addr) (v : Byte) (s : State) : Ran s (busWrite addr v s) := by
  refine ⟨by simp [SameSession], by simp, fun h => busWrite_wf h addr v, ?_⟩
  unfold busWrite
  split
  case h_5 _ => exact .inr ⟨rfl, rfl⟩
  all_goals exact .inl ⟨rfl, rfl⟩

theorem readPair_ran (lo hi : Addr) (s : State) : Ran s (readPair lo hi s).2 :=
  (busRead_ran lo s).trans (busRead_ran hi _)

theorem resolve_ran (m : MemMode) (s : State) : Ran s (resolve m s).state := by
  cases m <;> first
    | exact Ran.refl s
    | exact readPair_ran _ _ s

theorem loadMem_ran (m : MemMode) (s : State) : Ran s (loadMem m s).state :=
  (resolve_ran m s).trans (busRead_ran _ _)

theorem loadOperand_ran (o : ReadOperand) (s : State) : Ran s (loadOperand o s).state := by
  cases o with
  | imm v => exact Ran.refl s
  | mem m => exact loadMem_ran m s

theorem resolveOnly_ran (o : Operand) (s : State) : Ran s (resolveOnly o s).2 := by
  cases o with
  | mem m => exact resolve_ran m s
  | ind a => exact readPair_ran _ _ s
  | imp => exact Ran.refl s
  | acc => exact Ran.refl s
  | imm _ => exact Ran.refl s
  | rel _ => exact Ran.refl s

theorem push_ran (v : Byte) (s : State) : Ran s (push v s) :=
  (busWrite_ran (stackAddr s.sp) v s).withRegisters _ _ _ _ _ _ _

theorem pull_ran (s : State) : Ran s (pull s).2 :=
  ((Ran.refl s).withRegisters s.a s.x s.y (s.sp + 1) s.p s.pc s.rem).trans (busRead_ran _ _)

theorem pushWord_ran (v : Addr) (s : State) : Ran s (pushWord v s) := (push_ran _ s).trans (push_ran _ _)

theorem pullWord_ran (s : State) : Ran s (pullWord s).2 := (pull_ran s).trans (pull_ran _)

theorem interruptSequence_ran (ret : Addr) (b : Bool) (vec : Addr) (s : State) : Ran s (interruptSequence ret b vec s) :=
  (((pushWord_ran ret s).trans (push_ran (pushedStatus b s.p) _)).trans (readPair_ran _ _ _)).withRegisters _ _ _ _ _ _ _

theorem returnFromInterrupt_ran (s : State) : Ran s (returnFromInterrupt s) := by
  have h := ((pull_ran s).withRegisters (pull s).2.a (pull s).2.x (pull s).2.y (pull s).2.sp (pull s).1 (pull s).2.pc
    (pull s).2.rem).trans (pullWord_ran _)
  exact h.withRegisters _ _ _ _ _ _ _

/-- The invariant speaks of the store, P and the DMA countdown only. -/
theorem Inv.congr {s t : State} (h : Inv s) (hm : t.mem = s.mem) (hp : t.p = s.p) (hc : t.dmaCount = s.dmaCount)
    (hl : t.dmaLow = s.dmaLow) : Inv t := by
  unfold Inv MemoryCanonical at *
  rw [hm, hp, hc, hl]; exact h

/-- A part of an instruction that leaves U set keeps the invariant. -/
theorem Inv.of_ran {s t : State} (h : Inv s) (hr : Ran s t) (hu : getFlag .u t.p = true) : Inv t := by
  obtain ⟨hm, -, hc, hl⟩ := h
  refine ⟨hr.wf hm, hu, ?_⟩
  have h0 : (0 : Byte).toNat = 0 := rfl
  rcases hr.dma with ⟨e, f⟩ | ⟨e, f⟩
  · rw [e, f]; exact ⟨hc, hl⟩
  · rw [e, f, h0]; omega

/-- An instruction that ended as `Ran` says, with U set. -/
def Completes (s : State) (r : Host.Outcome State Fault Refusal) : Prop :=
  ∃ t, r = .next t ∧ Ran s t ∧ getFlag .u t.p = true

theorem finish_completes {s t : State} (h : Ran s t) (a x y sp p : Byte) (pc : Addr) (n : Nat) :
    Completes s (finish n { t with a := a, x := x, y := y, sp := sp, p := p, pc := pc }) :=
  ⟨_, rfl, h.withRegisters _ _ _ _ _ _ _, by simp⟩

theorem accumulate_completes (f : Byte → Byte → Byte → Computed) (o : ReadOperand) (s : State) :
    Completes s (accumulate f o s) := finish_completes (loadOperand_ran o s) _ _ _ _ _ _ _

theorem compareWith_completes (reg : Byte) (o : ReadOperand) (s : State) : Completes s (compareWith reg o s) :=
  finish_completes (loadOperand_ran o s) _ _ _ _ _ _ _

theorem storeRegister_completes (v : Byte) (m : MemMode) (s : State) : Completes s (storeRegister v m s) :=
  finish_completes ((resolve_ran m s).trans (busWrite_ran _ _ _)) _ _ _ _ _ _ _

theorem modifyMem_completes (f : Byte → Byte → Computed) (m : MemMode) (s : State) : Completes s (modifyMem f m s) :=
  finish_completes ((loadMem_ran m s).trans (busWrite_ran _ _ _)) _ _ _ _ _ _ _

theorem modify_completes (f : Byte → Byte → Computed) (o : RmwOperand) (s : State) : Completes s (modify f o s) := by
  cases o with
  | acc => exact finish_completes (Ran.refl s) _ _ _ _ _ _ _
  | mem m => exact modifyMem_completes f m s

/-- A conditional branch, whole (R200). -/
theorem branchIf_eq (c : Bool) (off : Byte) (s : State) :
    branchIf c off s = .next { s with pc := if c then branchTarget off s else s.pc, p := forceUnused s.p,
                                      rem := if c then 2 + s.params.branchTakenExtra else 2 } := by
  cases c <;> rfl

theorem branchIf_completes (c : Bool) (off : Byte) (s : State) : Completes s (branchIf c off s) := by
  cases c <;> exact finish_completes (Ran.refl s) _ _ _ _ _ _ _

theorem writeFlag_completes (f : Flag) (on : Bool) (s : State) : Completes s (writeFlag f on s) :=
  finish_completes (Ran.refl s) _ _ _ _ _ _ _

theorem inert_completes (op : Byte) (o : Operand) (s : State) : Completes s (inert op o s) :=
  finish_completes (resolveOnly_ran o s) _ _ _ _ _ _ _

end Sys2Proof.Machine
end

