-- ==== Sys2Proof/Laws/PerInstr.lean ====
section
/-! SUPPORT. The per-instruction family EncodedLength (spec/30_encoding.md R80, R81): a well-formed instruction is encoded in one
opcode byte and the operand bytes of its mode. -/

namespace Sys2Proof.Laws.EncodedLength

/-- What the family says of an instruction, under any shapes of the unofficial opcodes. -/
def Statement (i : Instr) : Prop :=
  ∀ shape : Byte → Shape, WellFormed shape i = true → (encode i).length = 1 + operandBytes i.mode

/-- An instruction with an opcode byte has the length R81 gives its mode. -/
theorem length_of_opcode {i : Instr} {op : Byte} (h : opcodeOf i = some op) :
    (encode i).length = 1 + operandBytes i.mode := by
  rw [encode, h, List.length_cons, length_operandField, Nat.add_comm]; rfl

/-- A mode that the table has an opcode byte for. -/
theorem length_of_mode {i : Instr} (h : (opcodeOf i).isSome = true) : (encode i).length = 1 + operandBytes i.mode := by
  obtain ⟨op, ho⟩ := Option.isSome_iff_exists.mp h
  exact length_of_opcode ho

theorem lda (o : ReadOperand) : Statement (.lda o) := by
  intro shape h
  rcases o with v | m <;> (try cases m) <;> first
    | exact length_of_mode rfl
    | cases h

theorem ldx (o : ReadOperand) : Statement (.ldx o) := by
  intro shape h
  rcases o with v | m <;> (try cases m) <;> first
    | exact length_of_mode rfl
    | cases h

theorem ldy (o : ReadOperand) : Statement (.ldy o) := by
  intro shape h
  rcases o with v | m <;> (try cases m) <;> first
    | exact length_of_mode rfl
    | cases h

theorem sta (m : MemMode) : Statement (.sta m) := by
  intro shape h
  cases m <;> first
    | exact length_of_mode rfl
    | cases h

theorem stx (m : MemMode) : Statement (.stx m) := by
  intro shape h
  cases m <;> first
    | exact length_of_mode rfl
    | cases h

theorem sty (m : MemMode) : Statement (.sty m) := by
  intro shape h
  cases m <;> first
    | exact length_of_mode rfl
    | cases h

theorem tax : Statement .tax := fun _ _ => length_of_mode rfl

theorem tay : Statement .tay := fun _ _ => length_of_mode rfl

theorem txa : Statement .txa := fun _ _ => length_of_mode rfl

theorem tya : Statement .tya := fun _ _ => length_of_mode rfl

theorem tsx : Statement .tsx := fun _ _ => length_of_mode rfl

theorem txs : Statement .txs := fun _ _ => length_of_mode rfl

theorem adc (o : ReadOperand) : Statement (.adc o) := by
  intro shape h
  rcases o with v | m <;> (try cases m) <;> first
    | exact length_of_mode rfl
    | cases h

theorem sbc (o : ReadOperand) : Statement (.sbc o) := by
  intro shape h
  rcases o with v | m <;> (try cases m) <;> first
    | exact length_of_mode rfl
    | cases h

theorem and (o : ReadOperand) : Statement (.and o) := by
  intro shape h
  rcases o with v | m <;> (try cases m) <;> first
    | exact length_of_mode rfl
    | cases h

theorem ora (o : ReadOperand) : Statement (.ora o) := by
  intro shape h
  rcases o with v | m <;> (try cases m) <;> first
    | exact length_of_mode rfl
    | cases h

theorem eor (o : ReadOperand) : Statement (.eor o) := by
  intro shape h
  rcases o with v | m <;> (try cases m) <;> first
    | exact length_of_mode rfl
    | cases h

theorem bit (m : MemMode) : Statement (.bit m) := by
  intro shape h
  cases m <;> first
    | exact length_of_mode rfl
    | cases h

theorem cmp (o : ReadOperand) : Statement (.cmp o) := by
  intro shape h
  rcases o with v | m <;> (try cases m) <;> first
    | exact length_of_mode rfl
    | cases h

theorem cpx (o : ReadOperand) : Statement (.cpx o) := by
  intro shape h
  rcases o with v | m <;> (try cases m) <;> first
    | exact length_of_mode rfl
    | cases h

theorem cpy (o : ReadOperand) : Statement (.cpy o) := by
  intro shape h
  rcases o with v | m <;> (try cases m) <;> first
    | exact length_of_mode rfl
    | cases h

theorem asl (o : RmwOperand) : Statement (.asl o) := by
  intro shape h
  rcases o with _ | m <;> (try cases m) <;> first
    | exact length_of_mode rfl
    | cases h

theorem lsr (o : RmwOperand) : Statement (.lsr o) := by
  intro shape h
  rcases o with _ | m <;> (try cases m) <;> first
    | exact length_of_mode rfl
    | cases h

theorem rol (o : RmwOperand) : Statement (.rol o) := by
  intro shape h
  rcases o with _ | m <;> (try cases m) <;> first
    | exact length_of_mode rfl
    | cases h

theorem ror (o : RmwOperand) : Statement (.ror o) := by
  intro shape h
  rcases o with _ | m <;> (try cases m) <;> first
    | exact length_of_mode rfl
    | cases h

theorem inc (m : MemMode) : Statement (.inc m) := by
  intro shape h
  cases m <;> first
    | exact length_of_mode rfl
    | cases h

theorem dec (m : MemMode) : Statement (.dec m) := by
  intro shape h
  cases m <;> first
    | exact length_of_mode rfl
    | cases h

theorem inx : Statement .inx := fun _ _ => length_of_mode rfl

theorem iny : Statement .iny := fun _ _ => length_of_mode rfl

theorem dex : Statement .dex := fun _ _ => length_of_mode rfl

theorem dey : Statement .dey := fun _ _ => length_of_mode rfl

theorem bpl (off : Byte) : Statement (.bpl off) := fun _ _ => length_of_mode rfl

theorem bmi (off : Byte) : Statement (.bmi off) := fun _ _ => length_of_mode rfl

theorem bvc (off : Byte) : Statement (.bvc off) := fun _ _ => length_of_mode rfl

theorem bvs (off : Byte) : Statement (.bvs off) := fun _ _ => length_of_mode rfl

theorem bcc (off : Byte) : Statement (.bcc off) := fun _ _ => length_of_mode rfl

theorem bcs (off : Byte) : Statement (.bcs off) := fun _ _ => length_of_mode rfl

theorem bne (off : Byte) : Statement (.bne off) := fun _ _ => length_of_mode rfl

theorem beq (off : Byte) : Statement (.beq off) := fun _ _ => length_of_mode rfl

theorem jmp (t : JumpOperand) : Statement (.jmp t) := by
  intro shape h
  cases t <;> exact length_of_mode rfl

theorem jsr (a : Addr) : Statement (.jsr a) := fun _ _ => length_of_mode rfl

theorem rts : Statement .rts := fun _ _ => length_of_mode rfl

theorem rti : Statement .rti := fun _ _ => length_of_mode rfl

theorem brk : Statement .brk := fun _ _ => length_of_mode rfl

theorem pha : Statement .pha := fun _ _ => length_of_mode rfl

theorem php : Statement .php := fun _ _ => length_of_mode rfl

theorem pla : Statement .pla := fun _ _ => length_of_mode rfl

theorem plp : Statement .plp := fun _ _ => length_of_mode rfl

theorem clc : Statement .clc := fun _ _ => length_of_mode rfl

theorem sec : Statement .sec := fun _ _ => length_of_mode rfl

theorem cli : Statement .cli := fun _ _ => length_of_mode rfl

theorem sei : Statement .sei := fun _ _ => length_of_mode rfl

theorem cld : Statement .cld := fun _ _ => length_of_mode rfl

theorem sed : Statement .sed := fun _ _ => length_of_mode rfl

theorem clv : Statement .clv := fun _ _ => length_of_mode rfl

theorem nop : Statement .nop := fun _ _ => length_of_mode rfl

theorem kil (op : Byte) (o : Operand) : Statement (.kil op o) := fun _ _ => length_of_mode rfl

theorem slo (op : Byte) (o : Operand) : Statement (.slo op o) := fun _ _ => length_of_mode rfl

theorem rla (op : Byte) (o : Operand) : Statement (.rla op o) := fun _ _ => length_of_mode rfl

theorem sre (op : Byte) (o : Operand) : Statement (.sre op o) := fun _ _ => length_of_mode rfl

theorem rra (op : Byte) (o : Operand) : Statement (.rra op o) := fun _ _ => length_of_mode rfl

theorem sax (op : Byte) (o : Operand) : Statement (.sax op o) := fun _ _ => length_of_mode rfl

theorem lax (op : Byte) (o : Operand) : Statement (.lax op o) := fun _ _ => length_of_mode rfl

theorem dcp (op : Byte) (o : Operand) : Statement (.dcp op o) := fun _ _ => length_of_mode rfl

theorem isc (op : Byte) (o : Operand) : Statement (.isc op o) := fun _ _ => length_of_mode rfl

theorem anc (op : Byte) (o : Operand) : Statement (.anc op o) := fun _ _ => length_of_mode rfl

theorem alr (op : Byte) (o : Operand) : Statement (.alr op o) := fun _ _ => length_of_mode rfl

theorem arr (op : Byte) (o : Operand) : Statement (.arr op o) := fun _ _ => length_of_mode rfl

theorem xaa (op : Byte) (o : Operand) : Statement (.xaa op o) := fun _ _ => length_of_mode rfl

theorem lxa (op : Byte) (o : Operand) : Statement (.lxa op o) := fun _ _ => length_of_mode rfl

theorem axs (op : Byte) (o : Operand) : Statement (.axs op o) := fun _ _ => length_of_mode rfl

theorem usbc (op : Byte) (o : Operand) : Statement (.usbc op o) := fun _ _ => length_of_mode rfl

theorem ahx (op : Byte) (o : Operand) : Statement (.ahx op o) := fun _ _ => length_of_mode rfl

theorem shy (op : Byte) (o : Operand) : Statement (.shy op o) := fun _ _ => length_of_mode rfl

theorem shx (op : Byte) (o : Operand) : Statement (.shx op o) := fun _ _ => length_of_mode rfl

theorem tas (op : Byte) (o : Operand) : Statement (.tas op o) := fun _ _ => length_of_mode rfl

theorem las (op : Byte) (o : Operand) : Statement (.las op o) := fun _ _ => length_of_mode rfl

theorem nopUnofficial (op : Byte) (o : Operand) : Statement (.nopUnofficial op o) := fun _ _ => length_of_mode rfl

end Sys2Proof.Laws.EncodedLength
end

