-- ==== Sys2Proof/Laws/Step.lean ====
section
/-! SUPPORT. What one tick can do (spec/50_scheduler_dma.md R301, spec/40_execution_cycle.md R100): a DMA cycle, a countdown, or a
boundary, which dispatches an NMI, an IRQ or an instruction; and the laws of the DMA cycle and of runs. -/

namespace Sys2Proof.Machine

@[simp] theorem onNext_next (f : State → State) (s : State) : onNext f (.next s) = .next (f s) := rfl

/-- The next states of `onNext` are images of next states. -/
theorem onNext_eq_next {f : State → State} {r : Host.Outcome State Fault Refusal} {t : State} (h : onNext f r = .next t) :
    ∃ u, r = .next u ∧ t = f u := by
  cases r with
  | next u => exact ⟨u, rfl, (Host.Outcome.next.inj h).symm⟩
  | fault e => cases e
  | refused e => cases h

/-- A tick before the first `reset()` is refused (R383). -/
theorem step_not_ready {s : State} (hr : s.ready = false) : step s = .refused .tickBeforeReset := by
  simp [step, tick, hr]

/-- A tick in which the DMA controller steps (R302). -/
theorem step_dma {s : State} (hr : s.ready = true) (hd : s.dmaCount ≠ 0) : step s = .next (endTick (dmaStep s)) := by
  simp [step, tick, hr, dmaActive, hd]

/-- A tick that counts the remaining cycles down (R100). -/
theorem step_count {s : State} (hr : s.ready = true) (hd : s.dmaCount = 0) (h : 1 < s.rem) :
    step s = .next (endTick { s with rem := s.rem - 1 }) := by
  have : ¬ s.rem ≤ 1 := by omega
  simp [step, tick, hr, dmaActive, hd, clock, atBoundary, this]

/-- A tick that is a boundary (R100, R101). -/
theorem step_boundary {s : State} (hr : s.ready = true) (hd : s.dmaCount = 0) (h : s.rem ≤ 1) :
    step s = onNext endTick (dispatchBoundary { s with rem := 0 }) := by
  simp [step, tick, hr, dmaActive, hd, clock, atBoundary, h]

/-- A boundary with an NMI latched (R101). -/
theorem dispatchBoundary_nmi {s : State} (hn : s.nmiPending = true) :
    dispatchBoundary s = .next (endInterrupt (nmiSequence s)) := by
  simp [dispatchBoundary, hn]

/-- A boundary with an unmasked IRQ latched and no NMI (R101). -/
theorem dispatchBoundary_irq {s : State} (hn : s.nmiPending = false) (hi : s.irqPending = true)
    (hf : getFlag .i s.p = false) : dispatchBoundary s = .next (endInterrupt (irqSequence s)) := by
  simp [dispatchBoundary, hn, irqTaken, hi, hf]

/-- A boundary with no interrupt to dispatch (R101). -/
theorem dispatchBoundary_instruction {s : State} (hn : s.nmiPending = false)
    (hi : s.irqPending = false ∨ getFlag .i s.p = true) : dispatchBoundary s = dispatchInstruction s := by
  rcases hi with hi | hi <;> simp [dispatchBoundary, hn, irqTaken, hi]

/-! ### The DMA cycle (R308) -/

/-- A read does not look at the DMA countdown. -/
theorem busRead_withDmaCount (addr : Addr) (n : Nat) (s : State) :
    busRead addr { s with dmaCount := n } = ((busRead addr s).1, { (busRead addr s).2 with dmaCount := n }) := by
  unfold busRead; simp only []; split <;> rfl

/-- A dummy cycle. -/
theorem dmaStep_dummy {s : State} (h : 512 ≤ s.dmaCount - 1) : dmaStep s = { s with dmaCount := s.dmaCount - 1 } := by
  simp [dmaStep, h]

/-- A read cycle (R309). -/
theorem dmaStep_read {s : State} (h : s.dmaCount - 1 < 512) (hp : (s.dmaCount - 1) % 2 = 1) :
    dmaStep s = { (busRead (word s.dmaPage s.dmaLow) s).2 with
      dmaCount := s.dmaCount - 1, dmaLatch := (busRead (word s.dmaPage s.dmaLow) s).1 } := by
  have : ¬ 512 ≤ s.dmaCount - 1 := by omega
  simp only [dmaStep, this, hp, if_false, if_true, dmaRead, busRead_withDmaCount]

/-- A write cycle (R310). -/
theorem dmaStep_write {s : State} (h : s.dmaCount - 1 < 512) (hp : (s.dmaCount - 1) % 2 = 0) :
    dmaStep s = { s with dmaCount := s.dmaCount - 1, dmaLow := s.dmaLow + 1,
                         events := ⟨s.periphCycles, .oamWrite s.dmaLatch⟩ :: s.events } := by
  have h1 : ¬ 512 ≤ s.dmaCount - 1 := by omega
  have h2 : ¬ (s.dmaCount - 1) % 2 = 1 := by omega
  simp only [dmaStep, h1, h2, if_false, dmaWrite, deliver]

@[simp] theorem dmaStep_a (s : State) : (dmaStep s).a = s.a := by
  unfold dmaStep dmaRead dmaWrite; simp only []; split_ifs <;> simp

@[simp] theorem dmaStep_x (s : State) : (dmaStep s).x = s.x := by
  unfold dmaStep dmaRead dmaWrite; simp only []; split_ifs <;> simp

@[simp] theorem dmaStep_y (s : State) : (dmaStep s).y = s.y := by
  unfold dmaStep dmaRead dmaWrite; simp only []; split_ifs <;> simp

@[simp] theorem dmaStep_sp (s : State) : (dmaStep s).sp = s.sp := by
  unfold dmaStep dmaRead dmaWrite; simp only []; split_ifs <;> simp

@[simp] theorem dmaStep_p (s : State) : (dmaStep s).p = s.p := by
  unfold dmaStep dmaRead dmaWrite; simp only []; split_ifs <;> simp

@[simp] theorem dmaStep_pc (s : State) : (dmaStep s).pc = s.pc := by
  unfold dmaStep dmaRead dmaWrite; simp only []; split_ifs <;> simp

@[simp] theorem dmaStep_rem (s : State) : (dmaStep s).rem = s.rem := by
  unfold dmaStep dmaRead dmaWrite; simp only []; split_ifs <;> simp

@[simp] theorem dmaStep_nmiPending (s : State) : (dmaStep s).nmiPending = s.nmiPending := by
  unfold dmaStep dmaRead dmaWrite; simp only []; split_ifs <;> simp

@[simp] theorem dmaStep_irqPending (s : State) : (dmaStep s).irqPending = s.irqPending := by
  unfold dmaStep dmaRead dmaWrite; simp only []; split_ifs <;> simp

@[simp] theorem dmaStep_trap (s : State) : (dmaStep s).trap = s.trap := by
  unfold dmaStep dmaRead dmaWrite; simp only []; split_ifs <;> simp

@[simp] theorem dmaStep_cycles (s : State) : (dmaStep s).cycles = s.cycles := by
  unfold dmaStep dmaRead dmaWrite; simp only []; split_ifs <;> simp

@[simp] theorem dmaStep_periphCycles (s : State) : (dmaStep s).periphCycles = s.periphCycles := by
  unfold dmaStep dmaRead dmaWrite; simp only []; split_ifs <;> simp

@[simp] theorem dmaStep_mem (s : State) : (dmaStep s).mem = s.mem := by
  unfold dmaStep dmaRead dmaWrite; simp only []; split_ifs <;> simp

@[simp] theorem dmaStep_ready (s : State) : (dmaStep s).ready = s.ready := by
  unfold dmaStep dmaRead dmaWrite; simp only []; split_ifs <;> simp

@[simp] theorem dmaStep_params (s : State) : (dmaStep s).params = s.params := by
  unfold dmaStep dmaRead dmaWrite; simp only []; split_ifs <;> simp

@[simp] theorem dmaStep_dmaCount (s : State) : (dmaStep s).dmaCount = s.dmaCount - 1 := by
  unfold dmaStep dmaRead dmaWrite; simp only []; split_ifs <;> simp

/-! ### The fetch (R102-R104) -/

@[simp] theorem fetch_a (s : State) : (fetch s).2.a = s.a := by
  unfold fetch; simp only []; split
  · simp
  · split <;> simp
  · simp

@[simp] theorem fetch_x (s : State) : (fetch s).2.x = s.x := by
  unfold fetch; simp only []; split
  · simp
  · split <;> simp
  · simp

@[simp] theorem fetch_y (s : State) : (fetch s).2.y = s.y := by
  unfold fetch; simp only []; split
  · simp
  · split <;> simp
  · simp

@[simp] theorem fetch_sp (s : State) : (fetch s).2.sp = s.sp := by
  unfold fetch; simp only []; split
  · simp
  · split <;> simp
  · simp

@[simp] theorem fetch_p (s : State) : (fetch s).2.p = s.p := by
  unfold fetch; simp only []; split
  · simp
  · split <;> simp
  · simp

@[simp] theorem fetch_rem (s : State) : (fetch s).2.rem = s.rem := by
  unfold fetch; simp only []; split
  · simp
  · split <;> simp
  · simp

@[simp] theorem fetch_nmiPending (s : State) : (fetch s).2.nmiPending = s.nmiPending := by
  unfold fetch; simp only []; split
  · simp
  · split <;> simp
  · simp

@[simp] theorem fetch_irqPending (s : State) : (fetch s).2.irqPending = s.irqPending := by
  unfold fetch; simp only []; split
  · simp
  · split <;> simp
  · simp

@[simp] theorem fetch_trap (s : State) : (fetch s).2.trap = s.trap := by
  unfold fetch; simp only []; split
  · simp
  · split <;> simp
  · simp

@[simp] theorem fetch_cycles (s : State) : (fetch s).2.cycles = s.cycles := by
  unfold fetch; simp only []; split
  · simp
  · split <;> simp
  · simp

@[simp] theorem fetch_periphCycles (s : State) : (fetch s).2.periphCycles = s.periphCycles := by
  unfold fetch; simp only []; split
  · simp
  · split <;> simp
  · simp

@[simp] theorem fetch_dmaCount (s : State) : (fetch s).2.dmaCount = s.dmaCount := by
  unfold fetch; simp only []; split
  · simp
  · split <;> simp
  · simp

@[simp] theorem fetch_dmaPage (s : State) : (fetch s).2.dmaPage = s.dmaPage := by
  unfold fetch; simp only []; split
  · simp
  · split <;> simp
  · simp

@[simp] theorem fetch_dmaLow (s : State) : (fetch s).2.dmaLow = s.dmaLow := by
  unfold fetch; simp only []; split
  · simp
  · split <;> simp
  · simp

@[simp] theorem fetch_dmaLatch (s : State) : (fetch s).2.dmaLatch = s.dmaLatch := by
  unfold fetch; simp only []; split
  · simp
  · split <;> simp
  · simp

@[simp] theorem fetch_mem (s : State) : (fetch s).2.mem = s.mem := by
  unfold fetch; simp only []; split
  · simp
  · split <;> simp
  · simp

@[simp] theorem fetch_ready (s : State) : (fetch s).2.ready = s.ready := by
  unfold fetch; simp only []; split
  · simp
  · split <;> simp
  · simp

@[simp] theorem fetch_params (s : State) : (fetch s).2.params = s.params := by
  unfold fetch; simp only []; split
  · simp
  · split <;> simp
  · simp

/-- The fetch keeps everything outside the registers. -/
theorem fetch_ran (s : State) : Ran s (fetch s).2 := ⟨by simp [SameSession], by simp, by simp, .inl (by simp)⟩

/-! ### The tick, by cases -/

/-- Everything a tick that answers a next state can be (R100, R101, R301). -/
theorem step_cases {s t : State} (h : step s = .next t) :
    s.ready = true ∧
    ((s.dmaCount ≠ 0 ∧ t = endTick (dmaStep s)) ∨
     (s.dmaCount = 0 ∧ 1 < s.rem ∧ t = endTick { s with rem := s.rem - 1 }) ∨
     (s.dmaCount = 0 ∧ s.rem ≤ 1 ∧ s.nmiPending = true ∧
        t = endTick (endInterrupt (nmiSequence { s with rem := 0 }))) ∨
     (s.dmaCount = 0 ∧ s.rem ≤ 1 ∧ s.nmiPending = false ∧ s.irqPending = true ∧ getFlag .i s.p = false ∧
        t = endTick (endInterrupt (irqSequence { s with rem := 0 }))) ∨
     (InstructionNext s ∧
        ∃ u, exec (fetch { s with rem := 0 }).1 (fetch { s with rem := 0 }).2 = .next u ∧
          t = endTick (noteTrap s.pc u))) := by
  rcases Bool.eq_false_or_eq_true s.ready with hr | hr
  · refine ⟨hr, ?_⟩
    by_cases hd : s.dmaCount = 0
    · by_cases hb : s.rem ≤ 1
      · rw [step_boundary hr hd hb] at h
        obtain ⟨v, hv, rfl⟩ := onNext_eq_next h
        rcases Bool.eq_false_or_eq_true s.nmiPending with hn | hn
        · rw [dispatchBoundary_nmi (s := { s with rem := 0 }) hn] at hv
          obtain rfl := Host.Outcome.next.inj hv
          exact .inr (.inr (.inl ⟨hd, hb, hn, rfl⟩))
        · by_cases hq : s.irqPending = true ∧ getFlag .i s.p = false
          · rw [dispatchBoundary_irq (s := { s with rem := 0 }) hn hq.1 hq.2] at hv
            obtain rfl := Host.Outcome.next.inj hv
            exact .inr (.inr (.inr (.inl ⟨hd, hb, hn, hq.1, hq.2, rfl⟩)))
          · have hq' : s.irqPending = false ∨ getFlag .i s.p = true := by
              rcases Bool.eq_false_or_eq_true s.irqPending with hi | hi
              · exact .inr (by simpa [hi] using hq)
              · exact .inl hi
            rw [dispatchBoundary_instruction (s := { s with rem := 0 }) hn hq'] at hv
            obtain ⟨u, hu, rfl⟩ := onNext_eq_next hv
            exact .inr (.inr (.inr (.inr ⟨⟨hr, hd, hb, hn, hq'⟩, u, hu, rfl⟩)))
      · rw [step_count hr hd (by omega)] at h
        exact .inr (.inl ⟨hd, by omega, (Host.Outcome.next.inj h).symm⟩)
    · rw [step_dma hr hd] at h
      exact .inl ⟨hd, (Host.Outcome.next.inj h).symm⟩
  · rw [step_not_ready hr] at h; cases h

/-- What `reset()` keeps and sets (R380). -/
@[simp] theorem resetProcessor_mem (s : State) : (resetProcessor s).mem = s.mem := by simp [resetProcessor]
@[simp] theorem resetProcessor_a (s : State) : (resetProcessor s).a = s.a := by simp [resetProcessor]
@[simp] theorem resetProcessor_x (s : State) : (resetProcessor s).x = s.x := by simp [resetProcessor]
@[simp] theorem resetProcessor_y (s : State) : (resetProcessor s).y = s.y := by simp [resetProcessor]
@[simp] theorem resetProcessor_trap (s : State) : (resetProcessor s).trap = s.trap := by simp [resetProcessor]
@[simp] theorem resetProcessor_cycles (s : State) : (resetProcessor s).cycles = s.cycles := by simp [resetProcessor]
@[simp] theorem resetProcessor_periphCycles (s : State) : (resetProcessor s).periphCycles = s.periphCycles := by simp [resetProcessor]
@[simp] theorem resetProcessor_dmaCount (s : State) : (resetProcessor s).dmaCount = s.dmaCount := by simp [resetProcessor]
@[simp] theorem resetProcessor_dmaPage (s : State) : (resetProcessor s).dmaPage = s.dmaPage := by simp [resetProcessor]
@[simp] theorem resetProcessor_dmaLow (s : State) : (resetProcessor s).dmaLow = s.dmaLow := by simp [resetProcessor]
@[simp] theorem resetProcessor_dmaLatch (s : State) : (resetProcessor s).dmaLatch = s.dmaLatch := by simp [resetProcessor]
@[simp] theorem resetProcessor_params (s : State) : (resetProcessor s).params = s.params := by simp [resetProcessor]
@[simp] theorem resetProcessor_p (s : State) : (resetProcessor s).p = 0x34 := by simp [resetProcessor]
@[simp] theorem resetProcessor_sp (s : State) : (resetProcessor s).sp = 0xFF := by simp [resetProcessor]
@[simp] theorem resetProcessor_rem (s : State) : (resetProcessor s).rem = s.params.resetCycles := by simp [resetProcessor]
@[simp] theorem resetProcessor_ready (s : State) : (resetProcessor s).ready = true := rfl
@[simp] theorem resetProcessor_events (s : State) : (resetProcessor s).events = (read16 resetVector s).2.events := by
  simp [resetProcessor, read16_withRegisters]
@[simp] theorem resetProcessor_draws (s : State) : (resetProcessor s).draws = (read16 resetVector s).2.draws := by
  simp [resetProcessor, read16_withRegisters]

/-- The state after reset is the reset of the constructed core, with the deterministic draw (log entries 3, 4, 5). -/
theorem reset_eq_resetProcessor : State.reset = resetProcessor (State.construct Params.default [] 0x00 0x00 0x00) := by
  decide

/-! ### Runs -/

@[simp] theorem ticks_zero (s : State) : ticks 0 s = .next s := rfl

theorem ticks_succ {s t : State} (h : step s = .next t) (n : Nat) : ticks (n + 1) s = ticks n t := by
  simp [ticks, h]

/-- A run of ticks in two parts. -/
theorem ticks_add {s t : State} {n : Nat} (h : ticks n s = .next t) (m : Nat) : ticks (n + m) s = ticks m t := by
  induction n generalizing s with
  | zero =>
    obtain rfl := Host.Outcome.next.inj h
    rw [Nat.zero_add]
  | succ n ih =>
    cases hs : step s with
    | next u =>
      rw [ticks_succ hs] at h
      rw [Nat.add_right_comm, ticks_succ hs]
      exact ih h
    | fault e => cases e
    | refused e => simp [ticks, hs] at h

end Sys2Proof.Machine
end

