-- ==== Sys2Proof/Tests/Slice0.lean ====
section
/-! SUPPORT. Tests of the model. Expected values come from spec/95_test_vectors.md (each test names its row) or are written out
from the encodings of spec/30_encoding.md R85 and R86. The `witness_` theorems show states that meet the hypotheses of the
statements in Certificates/Slice0/Obligations.lean. -/

namespace Sys2Proof.Machine.Tests

/-! ### WellFormed refuses -/

/-- LDA has no ZPY form (R86). -/
theorem test_wellFormed_refuses_official_mode : WellFormed (shapeOf []) (.lda (.mem (.zpy 0x10))) = false := by decide

/-- STX has no ZPX form, ASL no ABY form, BIT no IZX form (R86). -/
theorem test_wellFormed_refuses_store_shift_bit :
    WellFormed (shapeOf []) (.stx (.zpx 0x10)) = false ∧ WellFormed (shapeOf []) (.asl (.mem (.aby 0x1234))) = false ∧
    WellFormed (shapeOf []) (.bit (.izx 0x10)) = false := by decide

/-- 0x07 is SLO's byte, not RLA's (R87). -/
theorem test_wellFormed_refuses_opcode : WellFormed (shapeOf []) (.rla 0x07 (.mem (.zp 0x10))) = false := by decide

/-- 0x07 is ZP under the NMOS shapes (R87). -/
theorem test_wellFormed_refuses_unofficial_mode : WellFormed (shapeOf []) (.slo 0x07 (.mem (.abs 0x1234))) = false := by
  decide

/-- A shape given by the session takes the place of the NMOS one (R273). -/
theorem test_wellFormed_follows_shape :
    WellFormed (shapeOf [(0x07, ⟨.abs, 6, false⟩)]) (.slo 0x07 (.mem (.abs 0x1234))) = true ∧
    WellFormed (shapeOf [(0x07, ⟨.abs, 6, false⟩)]) (.slo 0x07 (.mem (.zp 0x10))) = false := by decide

/-! ### Decoding words written out from R85 and R86 -/

theorem test_decode_load_store_transfer :
    decodeTableWord 16 0x42A9 = some (.lda (.imm 0x42)) ∧
    decodeTableWord 16 0xF0B6 = some (.ldx (.mem (.zpy 0xF0))) ∧
    decodeTableWord 24 0x3000BC = some (.ldy (.mem (.abx 0x3000))) ∧
    decodeTableWord 16 0x4091 = some (.sta (.izy 0x40)) ∧
    decodeTableWord 16 0xFF96 = some (.stx (.zpy 0xFF)) ∧
    decodeTableWord 24 0x04008C = some (.sty (.abs 0x0400)) ∧
    decodeTableWord 8 0xAA = some .tax ∧
    decodeTableWord 8 0xA8 = some .tay ∧
    decodeTableWord 8 0x8A = some .txa ∧
    decodeTableWord 8 0x98 = some .tya ∧
    decodeTableWord 8 0xBA = some .tsx ∧
    decodeTableWord 8 0x9A = some .txs := by decide

theorem test_decode_arithmetic :
    decodeTableWord 16 0x5069 = some (.adc (.imm 0x50)) ∧
    decodeTableWord 16 0x10F1 = some (.sbc (.mem (.izy 0x10))) ∧
    decodeTableWord 16 0x2021 = some (.and (.mem (.izx 0x20))) ∧
    decodeTableWord 24 0x123419 = some (.ora (.mem (.aby 0x1234))) ∧
    decodeTableWord 16 0x1055 = some (.eor (.mem (.zpx 0x10))) ∧
    decodeTableWord 24 0x03002C = some (.bit (.abs 0x0300)) ∧
    decodeTableWord 24 0x1234DD = some (.cmp (.mem (.abx 0x1234))) ∧
    decodeTableWord 16 0x00E0 = some (.cpx (.imm 0x00)) ∧
    decodeTableWord 16 0x20C4 = some (.cpy (.mem (.zp 0x20))) := by decide

theorem test_decode_shift :
    decodeTableWord 8 0x0A = some (.asl .acc) ∧
    decodeTableWord 16 0x3046 = some (.lsr (.mem (.zp 0x30))) ∧
    decodeTableWord 24 0x12342E = some (.rol (.mem (.abs 0x1234))) ∧
    decodeTableWord 24 0x04FF7E = some (.ror (.mem (.abx 0x04FF))) ∧
    decodeTableWord 16 0x80F6 = some (.inc (.zpx 0x80)) ∧
    decodeTableWord 24 0x0600CE = some (.dec (.abs 0x0600)) ∧
    decodeTableWord 8 0xE8 = some .inx ∧
    decodeTableWord 8 0xC8 = some .iny ∧
    decodeTableWord 8 0xCA = some .dex ∧
    decodeTableWord 8 0x88 = some .dey := by decide

theorem test_decode_control :
    decodeTableWord 16 0xFE10 = some (.bpl 0xFE) ∧
    decodeTableWord 16 0xFE30 = some (.bmi 0xFE) ∧
    decodeTableWord 16 0x0250 = some (.bvc 0x02) ∧
    decodeTableWord 16 0x0270 = some (.bvs 0x02) ∧
    decodeTableWord 16 0x0290 = some (.bcc 0x02) ∧
    decodeTableWord 16 0x02B0 = some (.bcs 0x02) ∧
    decodeTableWord 16 0xFCD0 = some (.bne 0xFC) ∧
    decodeTableWord 16 0x7FF0 = some (.beq 0x7F) ∧
    decodeTableWord 24 0x12344C = some (.jmp (.abs 0x1234)) ∧
    decodeTableWord 24 0x02FF6C = some (.jmp (.ind 0x02FF)) ∧
    decodeTableWord 24 0x061020 = some (.jsr 0x0610) ∧
    decodeTableWord 8 0x60 = some .rts ∧
    decodeTableWord 8 0x40 = some .rti ∧
    decodeTableWord 8 0x00 = some .brk := by decide

theorem test_decode_stack_flags :
    decodeTableWord 8 0x48 = some .pha ∧
    decodeTableWord 8 0x08 = some .php ∧
    decodeTableWord 8 0x68 = some .pla ∧
    decodeTableWord 8 0x28 = some .plp ∧
    decodeTableWord 8 0x18 = some .clc ∧
    decodeTableWord 8 0x38 = some .sec ∧
    decodeTableWord 8 0x58 = some .cli ∧
    decodeTableWord 8 0x78 = some .sei ∧
    decodeTableWord 8 0xD8 = some .cld ∧
    decodeTableWord 8 0xF8 = some .sed ∧
    decodeTableWord 8 0xB8 = some .clv ∧
    decodeTableWord 8 0xEA = some .nop := by decide

theorem test_decode_unofficial_first :
    decodeTableWord 8 0x02 = some (.kil 0x02 .imp) ∧
    decodeTableWord 16 0x1007 = some (.slo 0x07 (.mem (.zp 0x10))) ∧
    decodeTableWord 24 0x12343B = some (.rla 0x3B (.mem (.aby 0x1234))) ∧
    decodeTableWord 16 0x1043 = some (.sre 0x43 (.mem (.izx 0x10))) ∧
    decodeTableWord 16 0x1073 = some (.rra 0x73 (.mem (.izy 0x10))) ∧
    decodeTableWord 16 0x1097 = some (.sax 0x97 (.mem (.zpy 0x10))) ∧
    decodeTableWord 24 0x10FFBF = some (.lax 0xBF (.mem (.aby 0x10FF))) ∧
    decodeTableWord 24 0x0500DF = some (.dcp 0xDF (.mem (.abx 0x0500))) ∧
    decodeTableWord 24 0x1234EF = some (.isc 0xEF (.mem (.abs 0x1234))) ∧
    decodeTableWord 16 0x442B = some (.anc 0x2B (.imm 0x44)) ∧
    decodeTableWord 16 0x444B = some (.alr 0x4B (.imm 0x44)) := by decide

theorem test_decode_unofficial_second :
    decodeTableWord 16 0x446B = some (.arr 0x6B (.imm 0x44)) ∧
    decodeTableWord 16 0x448B = some (.xaa 0x8B (.imm 0x44)) ∧
    decodeTableWord 16 0x44AB = some (.lxa 0xAB (.imm 0x44)) ∧
    decodeTableWord 16 0x44CB = some (.axs 0xCB (.imm 0x44)) ∧
    decodeTableWord 16 0x01EB = some (.usbc 0xEB (.imm 0x01)) ∧
    decodeTableWord 16 0x1093 = some (.ahx 0x93 (.mem (.izy 0x10))) ∧
    decodeTableWord 24 0x12349C = some (.shy 0x9C (.mem (.abx 0x1234))) ∧
    decodeTableWord 24 0x12349E = some (.shx 0x9E (.mem (.aby 0x1234))) ∧
    decodeTableWord 24 0x12349B = some (.tas 0x9B (.mem (.aby 0x1234))) ∧
    decodeTableWord 24 0x10FFBB = some (.las 0xBB (.mem (.aby 0x10FF))) ∧
    decodeTableWord 24 0x10FF1C = some (.nopUnofficial 0x1C (.mem (.abx 0x10FF))) ∧
    decodeTableWord 16 0x4480 = some (.nopUnofficial 0x80 (.imm 0x44)) := by decide

/-- The decoder needs the operand bytes, and only those (R80, R81). -/
theorem test_decode_length :
    decode [] [] = .error .noOpcode ∧ decode [] [0xA9] = .error (.operandMissing 0xA9) ∧
    decode [] [0xAD, 0x34] = .error (.operandMissing 0xAD) ∧ decode [] [0xAA, 0x42] = .ok (.tax, [0x42]) := by decide

/-- The encoder writes the words of R86. -/
theorem test_encode :
    encode (.lda (.mem (.abx 0x12FF))) = [0xBD, 0xFF, 0x12] ∧ encode (.stx (.zpy 0xFF)) = [0x96, 0xFF] ∧
    encode (.jmp (.ind 0x02FF)) = [0x6C, 0xFF, 0x02] ∧ encode (.lda (.mem (.zpy 0x10))) = [] := by decide

/-! ### One step per row of spec/95_test_vectors.md -/

/-- The registers and the budget that a row of L2 shows. -/
structure Seen where
  pc : Addr
  a : Byte
  x : Byte
  y : Byte
  sp : Byte
  p : Byte
  budget : Nat
deriving DecidableEq, Repr

/-- The state before a row: the bytes of the instruction at PC and the listed cells. -/
def before (pc : Addr) (a x y sp p : Byte) (code : List Byte) (cells : List (Nat × Byte)) : State :=
  { State.reset with
    pc := pc, a := a, x := x, y := y, sp := sp, p := p,
    mem := Memory.writeAll (cells.foldl (fun m c => Memory.write m c.1 c.2) []) pc.toNat code }

/-- A value of the next state, nothing if there is none. -/
def afterStep {α : Type} (f : State → α) (s : State) : Option α :=
  match step s with
  | .next t => some (f t)
  | .fault _ => none
  | .refused _ => none

def seen (t : State) : Seen := ⟨t.pc, t.a, t.x, t.y, t.sp, t.p, t.rem⟩

/-- The registers after a step and the bytes at the listed indices. -/
def observe (cells : List Nat) (s : State) : Option (Seen × List Byte) :=
  afterStep (fun t => (seen t, cells.map fun i => t.mem.read i)) s

/-- L2, R140: LDA (zp),Y crossing: +1. -/
theorem test_lda :
    observe []
      (before 0x0200 0x00 0x00 0x01 0xFF 0x20 [0xB1, 0x10] [(0x0010, 0xFF), (0x0011, 0x30), (0x3100, 0x99)]) =
    some (⟨0x0202, 0x99, 0x00, 0x01, 0xFF, 0xA0, 6⟩, []) := by decide

/-- L2, R140: LDA (zp,X) pointer wraps in page 0. -/
theorem test_lda_2 :
    observe []
      (before 0x0200 0x00 0x01 0x00 0xFF 0x20 [0xA1, 0xFE] [(0x0000, 0x12), (0x00FF, 0x34), (0x1234, 0x01)]) =
    some (⟨0x0202, 0x01, 0x01, 0x00, 0xFF, 0x20, 6⟩, []) := by decide

/-- L2, R141: LDX zp,Y wraps in page 0. -/
theorem test_ldx :
    observe []
      (before 0x0200 0x00 0x00 0x20 0xFF 0x20 [0xB6, 0xF0] [(0x0010, 0x80)]) =
    some (⟨0x0202, 0x00, 0x80, 0x20, 0xFF, 0xA0, 4⟩, []) := by decide

/-- L2, R142: LDY abs,X no crossing. -/
theorem test_ldy :
    observe []
      (before 0x0200 0x00 0x05 0x00 0xFF 0xA0 [0xBC, 0x00, 0x30] [(0x3005, 0x00)]) =
    some (⟨0x0203, 0x00, 0x05, 0x00, 0xFF, 0x22, 4⟩, []) := by decide

/-- L2, R143: STA abs,Y crossing, PENALTY_ON_WRITES. -/
theorem test_sta :
    observe [0x1300]
      { before 0x0200 0x77 0x00 0x01 0xFF 0x20 [0x99, 0xFF, 0x12] [] with params := { Params.default with penaltyOnWrites := true } } =
    some (⟨0x0203, 0x77, 0x00, 0x01, 0xFF, 0x20, 6⟩, [0x77]) := by decide

/-- L2, R143: STA (zp),Y. -/
theorem test_sta_2 :
    observe [0x0510]
      (before 0x0200 0xAB 0x00 0x10 0xFF 0x20 [0x91, 0x40] [(0x0040, 0x00), (0x0041, 0x05)]) =
    some (⟨0x0202, 0xAB, 0x00, 0x10, 0xFF, 0x20, 6⟩, [0xAB]) := by decide

/-- L2, R144: STX zp,Y wraps. -/
theorem test_stx :
    observe [0x0001]
      (before 0x0200 0x00 0x11 0x02 0xFF 0x20 [0x96, 0xFF] []) =
    some (⟨0x0202, 0x00, 0x11, 0x02, 0xFF, 0x20, 4⟩, [0x11]) := by decide

/-- L2, R145: STY abs, flags unchanged. -/
theorem test_sty :
    observe [0x0400]
      (before 0x0200 0x00 0x00 0x00 0xFF 0xA1 [0x8C, 0x00, 0x04] []) =
    some (⟨0x0203, 0x00, 0x00, 0x00, 0xFF, 0xA1, 4⟩, [0x00]) := by decide

/-- L2, R146: TAX zero. -/
theorem test_tax :
    observe []
      (before 0x0200 0x00 0x33 0x00 0xFF 0x20 [0xAA] []) =
    some (⟨0x0201, 0x00, 0x00, 0x00, 0xFF, 0x22, 2⟩, []) := by decide

/-- L2, R147: TAY negative. -/
theorem test_tay :
    observe []
      (before 0x0200 0xF0 0x00 0x00 0xFF 0x20 [0xA8] []) =
    some (⟨0x0201, 0xF0, 0x00, 0xF0, 0xFF, 0xA0, 2⟩, []) := by decide

/-- L2, R148: TXA. -/
theorem test_txa :
    observe []
      (before 0x0200 0x00 0x7F 0x00 0xFF 0x20 [0x8A] []) =
    some (⟨0x0201, 0x7F, 0x7F, 0x00, 0xFF, 0x20, 2⟩, []) := by decide

/-- L2, R149: TYA. -/
theorem test_tya :
    observe []
      (before 0x0200 0x12 0x00 0x00 0xFF 0x20 [0x98] []) =
    some (⟨0x0201, 0x00, 0x00, 0x00, 0xFF, 0x22, 2⟩, []) := by decide

/-- L2, R150: TSX sets N. -/
theorem test_tsx :
    observe []
      (before 0x0200 0x00 0x00 0x00 0xFD 0x20 [0xBA] []) =
    some (⟨0x0201, 0x00, 0xFD, 0x00, 0xFD, 0xA0, 2⟩, []) := by decide

/-- L2, R151: TXS sets no flag. -/
theorem test_txs :
    observe []
      (before 0x0200 0x00 0x00 0x00 0xFF 0x20 [0x9A] []) =
    some (⟨0x0201, 0x00, 0x00, 0x00, 0x00, 0x20, 2⟩, []) := by decide

/-- L2, R162: ADC 0x50+0x50 (source-formula V). -/
theorem test_adc :
    observe []
      (before 0x0200 0x50 0x00 0x00 0xFF 0x20 [0x69, 0x50] []) =
    some (⟨0x0202, 0xA0, 0x00, 0x00, 0xFF, 0xE0, 2⟩, []) := by decide

/-- L2, R162: ADC 0x7F+0x01. -/
theorem test_adc_2 :
    observe []
      (before 0x0200 0x7F 0x00 0x00 0xFF 0x20 [0x69, 0x01] []) =
    some (⟨0x0202, 0x80, 0x00, 0x00, 0xFF, 0xE0, 2⟩, []) := by decide

/-- L2, R161: ADC with D=1 stays binary: 0x09+0x01. -/
theorem test_adc_decimal :
    observe []
      (before 0x0200 0x09 0x00 0x00 0xFF 0x28 [0x69, 0x01] []) =
    some (⟨0x0202, 0x0A, 0x00, 0x00, 0xFF, 0x28, 2⟩, []) := by decide

/-- L2, R163: SBC 0x50-0xF0, C=1. -/
theorem test_sbc :
    observe []
      (before 0x0200 0x50 0x00 0x00 0xFF 0x21 [0xE9, 0xF0] []) =
    some (⟨0x0202, 0x60, 0x00, 0x00, 0xFF, 0x20, 2⟩, []) := by decide

/-- L2, R163: SBC 0x05-0x03, C=0 (borrow). -/
theorem test_sbc_2 :
    observe []
      (before 0x0200 0x05 0x00 0x00 0xFF 0x20 [0xE9, 0x03] []) =
    some (⟨0x0202, 0x01, 0x00, 0x00, 0xFF, 0x21, 2⟩, []) := by decide

/-- L2, R164: AND to zero. -/
theorem test_and :
    observe []
      (before 0x0200 0xF0 0x00 0x00 0xFF 0x20 [0x29, 0x0F] []) =
    some (⟨0x0202, 0x00, 0x00, 0x00, 0xFF, 0x22, 2⟩, []) := by decide

/-- L2, R165: ORA to negative. -/
theorem test_ora :
    observe []
      (before 0x0200 0x01 0x00 0x00 0xFF 0x20 [0x09, 0x80] []) =
    some (⟨0x0202, 0x81, 0x00, 0x00, 0xFF, 0xA0, 2⟩, []) := by decide

/-- L2, R166: EOR self-cancel. -/
theorem test_eor :
    observe []
      (before 0x0200 0xAA 0x00 0x00 0xFF 0x20 [0x49, 0xAA] []) =
    some (⟨0x0202, 0x00, 0x00, 0x00, 0xFF, 0x22, 2⟩, []) := by decide

/-- L2, R167: BIT copies N,V from M; Z from A&M. -/
theorem test_bit :
    observe []
      (before 0x0200 0x01 0x00 0x00 0xFF 0x20 [0x24, 0x10] [(0x0010, 0xC0)]) =
    some (⟨0x0202, 0x01, 0x00, 0x00, 0xFF, 0xE2, 3⟩, []) := by decide

/-- L2, R167: BIT with A&M != 0. -/
theorem test_bit_2 :
    observe []
      (before 0x0200 0x01 0x00 0x00 0xFF 0xE2 [0x2C, 0x00, 0x03] [(0x0300, 0x01)]) =
    some (⟨0x0203, 0x01, 0x00, 0x00, 0xFF, 0x20, 4⟩, []) := by decide

/-- L2, R169: CMP A<M. -/
theorem test_cmp :
    observe []
      (before 0x0200 0x40 0x00 0x00 0xFF 0x20 [0xC9, 0x41] []) =
    some (⟨0x0202, 0x40, 0x00, 0x00, 0xFF, 0xA0, 2⟩, []) := by decide

/-- L2, R169: CMP A>M, result negative. -/
theorem test_cmp_2 :
    observe []
      (before 0x0200 0xF0 0x00 0x00 0xFF 0x20 [0xC9, 0x01] []) =
    some (⟨0x0202, 0xF0, 0x00, 0x00, 0xFF, 0xA1, 2⟩, []) := by decide

/-- L2, R170: CPX #0 with X=0. -/
theorem test_cpx :
    observe []
      (before 0x0200 0x00 0x00 0x00 0xFF 0x20 [0xE0, 0x00] []) =
    some (⟨0x0202, 0x00, 0x00, 0x00, 0xFF, 0x23, 2⟩, []) := by decide

/-- L2, R171: CPY zp, Y<M. -/
theorem test_cpy :
    observe []
      (before 0x0200 0x00 0x00 0x10 0xFF 0x20 [0xC4, 0x20] [(0x0020, 0x80)]) =
    some (⟨0x0202, 0x00, 0x00, 0x10, 0xFF, 0xA0, 3⟩, []) := by decide

/-- L2, R180: ASL zp. -/
theorem test_asl :
    observe [0x0030]
      (before 0x0200 0x00 0x00 0x00 0xFF 0x20 [0x06, 0x30] [(0x0030, 0x40)]) =
    some (⟨0x0202, 0x00, 0x00, 0x00, 0xFF, 0xA0, 5⟩, [0x80]) := by decide

/-- L2, R181: LSR A to zero. -/
theorem test_lsr :
    observe []
      (before 0x0200 0x01 0x00 0x00 0xFF 0x20 [0x4A] []) =
    some (⟨0x0201, 0x00, 0x00, 0x00, 0xFF, 0x23, 2⟩, []) := by decide

/-- L2, R182: ROL A with C in. -/
theorem test_rol :
    observe []
      (before 0x0200 0x80 0x00 0x00 0xFF 0x21 [0x2A] []) =
    some (⟨0x0201, 0x01, 0x00, 0x00, 0xFF, 0x21, 2⟩, []) := by decide

/-- L2, R183: ROR A with C in. -/
theorem test_ror :
    observe []
      (before 0x0200 0x01 0x00 0x00 0xFF 0x21 [0x6A] []) =
    some (⟨0x0201, 0x80, 0x00, 0x00, 0xFF, 0xA1, 2⟩, []) := by decide

/-- L2, R183: ROR abs,X, 7 cycles even when crossing. -/
theorem test_ror_2 :
    observe [0x0500]
      (before 0x0200 0x00 0x01 0x00 0xFF 0x20 [0x7E, 0xFF, 0x04] [(0x0500, 0x02)]) =
    some (⟨0x0203, 0x00, 0x01, 0x00, 0xFF, 0x20, 7⟩, [0x01]) := by decide

/-- L2, R184: INC zp wraps to 0. -/
theorem test_inc :
    observe [0x0080]
      (before 0x0200 0x00 0x00 0x00 0xFF 0x20 [0xE6, 0x80] [(0x0080, 0xFF)]) =
    some (⟨0x0202, 0x00, 0x00, 0x00, 0xFF, 0x22, 5⟩, [0x00]) := by decide

/-- L2, R185: DEC abs to negative. -/
theorem test_dec :
    observe [0x0600]
      (before 0x0200 0x00 0x00 0x00 0xFF 0x20 [0xCE, 0x00, 0x06] [(0x0600, 0x00)]) =
    some (⟨0x0203, 0x00, 0x00, 0x00, 0xFF, 0xA0, 6⟩, [0xFF]) := by decide

/-- L2, R186: INX wraps. -/
theorem test_inx :
    observe []
      (before 0x0200 0x00 0xFF 0x00 0xFF 0x20 [0xE8] []) =
    some (⟨0x0201, 0x00, 0x00, 0x00, 0xFF, 0x22, 2⟩, []) := by decide

/-- L2, R187: INY. -/
theorem test_iny :
    observe []
      (before 0x0200 0x00 0x00 0x7F 0xFF 0x20 [0xC8] []) =
    some (⟨0x0201, 0x00, 0x00, 0x80, 0xFF, 0xA0, 2⟩, []) := by decide

/-- L2, R188: DEX to zero. -/
theorem test_dex :
    observe []
      (before 0x0200 0x00 0x01 0x00 0xFF 0x20 [0xCA] []) =
    some (⟨0x0201, 0x00, 0x00, 0x00, 0xFF, 0x22, 2⟩, []) := by decide

/-- L2, R189: DEY wraps. -/
theorem test_dey :
    observe []
      (before 0x0200 0x00 0x00 0x00 0xFF 0x20 [0x88] []) =
    some (⟨0x0201, 0x00, 0x00, 0xFF, 0xFF, 0xA0, 2⟩, []) := by decide

/-- L2, R207: BNE taken backward (rule R134 example). -/
theorem test_bne :
    observe []
      (before 0x0210 0x00 0x00 0x00 0xFF 0x20 [0xD0, 0xFC] []) =
    some (⟨0x020E, 0x00, 0x00, 0x00, 0xFF, 0x20, 3⟩, []) := by decide

/-- L2, R207: BNE not taken. -/
theorem test_bne_2 :
    observe []
      (before 0x0200 0x00 0x00 0x00 0xFF 0x22 [0xD0, 0xFC] []) =
    some (⟨0x0202, 0x00, 0x00, 0x00, 0xFF, 0x22, 2⟩, []) := by decide

/-- L2, R208: BEQ taken crossing a page: no page cycle (C7). -/
theorem test_beq :
    observe []
      (before 0x02F0 0x00 0x00 0x00 0xFF 0x22 [0xF0, 0x7F] []) =
    some (⟨0x0371, 0x00, 0x00, 0x00, 0xFF, 0x22, 3⟩, []) := by decide

/-- L2, R201: BPL with offset 0xFE: self-loop (trap). -/
theorem test_bpl :
    observe []
      (before 0x0200 0x00 0x00 0x00 0xFF 0x20 [0x10, 0xFE] []) =
    some (⟨0x0200, 0x00, 0x00, 0x00, 0xFF, 0x20, 3⟩, []) := by decide

/-- L2, R202: BMI not taken. -/
theorem test_bmi :
    observe []
      (before 0x0200 0x00 0x00 0x00 0xFF 0x20 [0x30, 0x10] []) =
    some (⟨0x0202, 0x00, 0x00, 0x00, 0xFF, 0x20, 2⟩, []) := by decide

/-- L2, R203: BVC taken. -/
theorem test_bvc :
    observe []
      (before 0x0200 0x00 0x00 0x00 0xFF 0x20 [0x50, 0x02] []) =
    some (⟨0x0204, 0x00, 0x00, 0x00, 0xFF, 0x20, 3⟩, []) := by decide

/-- L2, R204: BVS taken. -/
theorem test_bvs :
    observe []
      (before 0x0200 0x00 0x00 0x00 0xFF 0x60 [0x70, 0x02] []) =
    some (⟨0x0204, 0x00, 0x00, 0x00, 0xFF, 0x60, 3⟩, []) := by decide

/-- L2, R205: BCC not taken. -/
theorem test_bcc :
    observe []
      (before 0x0200 0x00 0x00 0x00 0xFF 0x21 [0x90, 0x02] []) =
    some (⟨0x0202, 0x00, 0x00, 0x00, 0xFF, 0x21, 2⟩, []) := by decide

/-- L2, R206: BCS taken, offset 0. -/
theorem test_bcs :
    observe []
      (before 0x0200 0x00 0x00 0x00 0xFF 0x21 [0xB0, 0x00] []) =
    some (⟨0x0202, 0x00, 0x00, 0x00, 0xFF, 0x21, 3⟩, []) := by decide

/-- L2, R209: JMP abs. -/
theorem test_jmp :
    observe []
      (before 0x0200 0x00 0x00 0x00 0xFF 0x20 [0x4C, 0x00, 0x90] []) =
    some (⟨0x9000, 0x00, 0x00, 0x00, 0xFF, 0x20, 3⟩, []) := by decide

/-- L2, R209: JMP ($02FF) page-wrap bug. -/
theorem test_jmp_2 :
    observe []
      (before 0x0400 0x00 0x00 0x00 0xFF 0x20 [0x6C, 0xFF, 0x02] [(0x0200, 0x12), (0x02FF, 0x34), (0x0300, 0x56)]) =
    some (⟨0x1234, 0x00, 0x00, 0x00, 0xFF, 0x20, 5⟩, []) := by decide

/-- L2, R210: JSR. -/
theorem test_jsr :
    observe [0x01FE, 0x01FF]
      (before 0x0600 0x00 0x00 0x00 0xFF 0x20 [0x20, 0x00, 0x80] []) =
    some (⟨0x8000, 0x00, 0x00, 0x00, 0xFD, 0x20, 6⟩, [0x02, 0x06]) := by decide

/-- L2, R210: JSR with SP=0x00 wraps. -/
theorem test_jsr_2 :
    observe [0x0100, 0x01FF]
      (before 0x0600 0x00 0x00 0x00 0x00 0x20 [0x20, 0x00, 0x80] []) =
    some (⟨0x8000, 0x00, 0x00, 0x00, 0xFE, 0x20, 6⟩, [0x06, 0x02]) := by decide

/-- L2, R211: RTS. -/
theorem test_rts :
    observe []
      (before 0x0200 0x00 0x00 0x00 0xFD 0x20 [0x60] [(0x01FE, 0x02), (0x01FF, 0x06)]) =
    some (⟨0x0603, 0x00, 0x00, 0x00, 0xFF, 0x20, 6⟩, []) := by decide

/-- L2, R212: RTI. -/
theorem test_rti :
    observe []
      (before 0x0200 0x00 0x00 0x00 0xFC 0x20 [0x40] [(0x01FD, 0x01), (0x01FE, 0x34), (0x01FF, 0x12)]) =
    some (⟨0x1234, 0x00, 0x00, 0x00, 0xFF, 0x21, 6⟩, []) := by decide

/-- L2, R213: BRK. -/
theorem test_brk :
    observe [0x01FD, 0x01FE, 0x01FF]
      (before 0x0400 0x00 0x00 0x00 0xFF 0x20 [0x00] [(0xFFFE, 0x00), (0xFFFF, 0x90)]) =
    some (⟨0x9000, 0x00, 0x00, 0x00, 0xFC, 0x24, 7⟩, [0x30, 0x02, 0x04]) := by decide

/-- L2, R230: PHA with SP=0x00 wraps. -/
theorem test_pha :
    observe [0x0100]
      (before 0x0200 0x5C 0x00 0x00 0x00 0x20 [0x48] []) =
    some (⟨0x0201, 0x5C, 0x00, 0x00, 0xFF, 0x20, 3⟩, [0x5C]) := by decide

/-- L2, R231: PHP pushes B=1. -/
theorem test_php :
    observe [0x01FF]
      (before 0x0200 0x00 0x00 0x00 0xFF 0x20 [0x08] []) =
    some (⟨0x0201, 0x00, 0x00, 0x00, 0xFE, 0x20, 3⟩, [0x30]) := by decide

/-- L2, R232: PLA with SP=0xFF wraps to 0x0100. -/
theorem test_pla :
    observe []
      (before 0x0200 0x00 0x00 0x00 0xFF 0x20 [0x68] [(0x0100, 0x80)]) =
    some (⟨0x0201, 0x80, 0x00, 0x00, 0x00, 0xA0, 4⟩, []) := by decide

/-- L2, R233: PLP 0xC3. -/
theorem test_plp :
    observe []
      (before 0x0200 0x00 0x00 0x00 0xFE 0x20 [0x28] [(0x01FF, 0xC3)]) =
    some (⟨0x0201, 0x00, 0x00, 0x00, 0xFF, 0xE3, 4⟩, []) := by decide

/-- L2, R234: CLC. -/
theorem test_clc :
    observe []
      (before 0x0200 0x00 0x00 0x00 0xFF 0x21 [0x18] []) =
    some (⟨0x0201, 0x00, 0x00, 0x00, 0xFF, 0x20, 2⟩, []) := by decide

/-- L2, R235: SEC. -/
theorem test_sec :
    observe []
      (before 0x0200 0x00 0x00 0x00 0xFF 0x20 [0x38] []) =
    some (⟨0x0201, 0x00, 0x00, 0x00, 0xFF, 0x21, 2⟩, []) := by decide

/-- L2, R236: CLI. -/
theorem test_cli :
    observe []
      (before 0x0200 0x00 0x00 0x00 0xFF 0x24 [0x58] []) =
    some (⟨0x0201, 0x00, 0x00, 0x00, 0xFF, 0x20, 2⟩, []) := by decide

/-- L2, R237: SEI. -/
theorem test_sei :
    observe []
      (before 0x0200 0x00 0x00 0x00 0xFF 0x20 [0x78] []) =
    some (⟨0x0201, 0x00, 0x00, 0x00, 0xFF, 0x24, 2⟩, []) := by decide

/-- L2, R238: CLD. -/
theorem test_cld :
    observe []
      (before 0x0200 0x00 0x00 0x00 0xFF 0x28 [0xD8] []) =
    some (⟨0x0201, 0x00, 0x00, 0x00, 0xFF, 0x20, 2⟩, []) := by decide

/-- L2, R239: SED. -/
theorem test_sed :
    observe []
      (before 0x0200 0x00 0x00 0x00 0xFF 0x20 [0xF8] []) =
    some (⟨0x0201, 0x00, 0x00, 0x00, 0xFF, 0x28, 2⟩, []) := by decide

/-- L2, R240: CLV. -/
theorem test_clv :
    observe []
      (before 0x0200 0x00 0x00 0x00 0xFF 0x60 [0xB8] []) =
    some (⟨0x0201, 0x00, 0x00, 0x00, 0xFF, 0x20, 2⟩, []) := by decide

/-- L2, R241: NOP. -/
theorem test_nop :
    observe []
      (before 0x0200 0x00 0x00 0x00 0xFF 0x20 [0xEA] []) =
    some (⟨0x0201, 0x00, 0x00, 0x00, 0xFF, 0x20, 2⟩, []) := by decide

/-- L2, R251: KIL continues. -/
theorem test_kil :
    observe []
      (before 0x0200 0x00 0x00 0x00 0xFF 0x20 [0x02] []) =
    some (⟨0x0201, 0x00, 0x00, 0x00, 0xFF, 0x20, 2⟩, []) := by decide

/-- L2, R252: SLO zp: no write. -/
theorem test_slo :
    observe []
      (before 0x0200 0x01 0x00 0x00 0xFF 0x20 [0x07, 0x10] [(0x0010, 0x81)]) =
    some (⟨0x0202, 0x01, 0x00, 0x00, 0xFF, 0x20, 5⟩, []) := by decide

/-- L2, R257: LAX (zp),Y crossing: +1. -/
theorem test_lax :
    observe []
      (before 0x0200 0x00 0x00 0x01 0xFF 0x20 [0xB3, 0x10] [(0x0010, 0xFF), (0x0011, 0x30)]) =
    some (⟨0x0202, 0x00, 0x00, 0x01, 0xFF, 0x20, 6⟩, []) := by decide

/-- L2, R258: DCP abs,X. -/
theorem test_dcp :
    observe []
      (before 0x0200 0x00 0x01 0x00 0xFF 0x20 [0xDF, 0x00, 0x05] [(0x0501, 0x10)]) =
    some (⟨0x0203, 0x00, 0x01, 0x00, 0xFF, 0x20, 7⟩, []) := by decide

/-- L2, R266: USBC #imm: A unchanged. -/
theorem test_usbc :
    observe []
      (before 0x0200 0x10 0x00 0x00 0xFF 0x21 [0xEB, 0x01] []) =
    some (⟨0x0202, 0x10, 0x00, 0x00, 0xFF, 0x21, 2⟩, []) := by decide

/-- L2, R271: LAS abs,Y crossing: +1. -/
theorem test_las :
    observe []
      (before 0x0200 0x00 0x00 0x01 0xFF 0x20 [0xBB, 0xFF, 0x10] []) =
    some (⟨0x0203, 0x00, 0x00, 0x01, 0xFF, 0x20, 5⟩, []) := by decide

/-- L2, R272: NOP abs,X crossing: +1. -/
theorem test_nopUnofficial :
    observe []
      (before 0x0200 0x00 0x01 0x00 0xFF 0x20 [0x1C, 0xFF, 0x10] []) =
    some (⟨0x0203, 0x00, 0x01, 0x00, 0xFF, 0x20, 5⟩, []) := by decide

/-- L2, R343: IRQ, I=0: taken instead of fetch. -/
theorem test_irq :
    observe [0x01FD, 0x01FE, 0x01FF]
      { before 0x0200 0x00 0x00 0x00 0xFF 0x20 [0xEA] [(0xFFFE, 0x00), (0xFFFF, 0x80)] with irqPending := true } =
    some (⟨0x8000, 0x00, 0x00, 0x00, 0xFC, 0x24, 7⟩, [0x20, 0x00, 0x02]) := by decide

/-- L2, R348: IRQ, I=1: masked, NOP runs, latch kept. -/
theorem test_irq_masked :
    observe []
      { before 0x0200 0x00 0x00 0x00 0xFF 0x24 [0xEA] [(0xFFFE, 0x00), (0xFFFF, 0x80)] with irqPending := true } =
    some (⟨0x0201, 0x00, 0x00, 0x00, 0xFF, 0x24, 2⟩, []) := by decide

/-- L2, R344: NMI with I=1: taken. -/
theorem test_nmi :
    observe [0x01FD, 0x01FE, 0x01FF]
      { before 0x0200 0x00 0x00 0x00 0xFF 0x24 [0xEA] [(0xFFFA, 0x00), (0xFFFB, 0xC0)] with nmiPending := true } =
    some (⟨0xC000, 0x00, 0x00, 0x00, 0xFC, 0x24, 7⟩, [0x24, 0x00, 0x02]) := by decide

/-- L2, R345: NMI and IRQ both: NMI first. -/
theorem test_nmi_and_irq :
    observe [0x01FD, 0x01FE, 0x01FF]
      { before 0x0200 0x00 0x00 0x00 0xFF 0x20 [0xEA] [(0xFFFA, 0x00), (0xFFFB, 0xC0), (0xFFFE, 0x00), (0xFFFF, 0x80)] with nmiPending := true, irqPending := true } =
    some (⟨0xC000, 0x00, 0x00, 0x00, 0xFC, 0x24, 7⟩, [0x20, 0x00, 0x02]) := by decide

/-! ### Scheduler, DMA, reset and host -/

/-- The state of program P4 (L3) before the STA: `STA $4014` at PC under the NES map. -/
def arming (cycles : Nat) : State :=
  { before 0x8002 0x02 0x00 0x00 0xFF 0x34 [0x8D, 0x14, 0x40] [] with
    params := { Params.default with map := nesMapDefault }, cycles := cycles }

/-- L2.8: armed on an even tick N = 513, on an odd tick 514; the STA's budget is 4. -/
theorem test_dma_arm :
    afterStep (fun t => (t.dmaCount, t.dmaPage, t.dmaLow, t.rem)) (arming 2) = some (513, 0x02, 0x00, 4) ∧
    afterStep (fun t => (t.dmaCount, t.dmaPage, t.dmaLow, t.rem)) (arming 3) = some (514, 0x02, 0x00, 4) := by decide

/-- A state in the middle of a transfer, with one byte of its page set. -/
def moving (count : Nat) (low : Byte) : State :=
  { arming 4 with dmaCount := count, dmaPage := 0x03, dmaLow := low, dmaLatch := 0x5A, rem := 4,
                  mem := [(0x0300, 0xC1)] }

/-- L2.8: the count after the decrement decides between a dummy, a read and a write (R308). -/
theorem test_dma_cycles :
    afterStep (fun t => (t.dmaCount, t.dmaLow, t.dmaLatch)) (moving 513 0x00) = some (512, 0x00, 0x5A) ∧
    afterStep (fun t => (t.dmaCount, t.dmaLow, t.dmaLatch)) (moving 512 0x00) = some (511, 0x00, 0xC1) ∧
    afterStep (fun t => (t.dmaCount, t.dmaLow, t.dmaLatch)) (moving 511 0x00) = some (510, 0x01, 0x5A) ∧
    afterStep (fun t => (t.dmaCount, t.dmaLow, t.dmaLatch)) (moving 1 0xFF) = some (0, 0x00, 0x5A) := by decide

/-- L2.8: only the write cycle is seen by the peripheral (R310). -/
theorem test_dma_delivers :
    afterStep (fun t => t.events) (moving 512 0x00) = some [] ∧
    afterStep (fun t => t.events) (moving 511 0x00) = some [⟨0, .oamWrite 0x5A⟩] := by decide

/-- The Processor stands still during a DMA tick, and `cycles` and `periph_cycles` do not (R302, R303, R304). -/
theorem test_dma_tick_counts :
    afterStep (fun t => (t.pc, t.rem, t.cycles, t.periphCycles)) (moving 513 0x00) = some (0x8002, 4, 5, 3) := by decide

/-- L2.9, reset values: the row's state under the NES map. -/
def dirty : State :=
  { before 0x1234 0x11 0x22 0x33 0x10 0xC3 [] [(0xFFFD, 0x80)] with
    params := { Params.default with map := nesMapDefault }, rem := 5, nmiPending := true, irqPending := true, cycles := 40 }

theorem test_reset_values :
    seen (resetProcessor dirty) = ⟨0x8000, 0x11, 0x22, 0x33, 0xFF, 0x34, 0⟩ ∧
    (resetProcessor dirty).nmiPending = false ∧ (resetProcessor dirty).irqPending = false ∧
    (resetProcessor dirty).cycles = 40 ∧ (resetProcessor dirty).mem = dirty.mem := by decide

/-- L2.9: a tick before the first `reset()` is refused. -/
theorem test_tick_before_reset :
    step (State.construct Params.default [] 0x00 0x00 0x00) = .refused .tickBeforeReset := by rfl

/-- L2.9: 20 bytes do not fit at 0xFFF0. -/
theorem test_load_past_end : loadBytes 0xFFF0 (List.replicate 20 0xEA) State.reset = .refused .loadPastEnd := by rfl

/-- L2.8: the host's write to the trigger at `cycles` = 7, and a read of it. -/
theorem test_host_trigger :
    (busWrite 0x4014 0x03 (arming 7)).dmaCount = 514 ∧ (busWrite 0x4014 0x03 (arming 7)).dmaPage = 0x03 ∧
    (busWrite 0x4014 0x03 (arming 7)).dmaLow = 0x00 ∧ hostReadValue 0x4014 (arming 7) = 0x00 := by decide

/-- L2.0 and R201: a branch to itself sets `trap`, and an interrupt does not. -/
theorem test_trap :
    afterStep (fun t => t.trap) (before 0x0200 0x00 0x00 0x00 0xFF 0x20 [0x10, 0xFE] []) = some true ∧
    afterStep (fun t => t.trap)
      { before 0x0200 0x00 0x00 0x00 0xFF 0x20 [] [(0xFFFB, 0x02)] with nmiPending := true } = some false := by decide

/-- R60: the devices at the edges of the NES map. -/
theorem test_nes_map :
    deviceAt nesMapDefault 0x1FFF = .ram 0x0800 ∧ deviceAt nesMapDefault 0x2000 = .ppuReg 0 ∧
    deviceAt nesMapDefault 0x3FFF = .ppuReg 7 ∧ deviceAt nesMapDefault 0x4013 = .apu ∧
    deviceAt nesMapDefault 0x4014 = .dmaTrigger ∧ deviceAt nesMapDefault 0x4015 = .apu ∧
    deviceAt nesMapDefault 0x401F = .apu ∧ deviceAt nesMapDefault 0x4020 = .fallback := by decide

/-- A read of a peripheral register takes the free value and is seen by the peripheral (R55); here LDA 0x2002. -/
theorem test_peripheral_read :
    afterStep (fun t => (t.draws, t.events))
      { arming 0 with pc := 0x8000, mem := [(0x8000, 0xAD), (0x8001, 0x02), (0x8002, 0x20)] } =
    some (1, [⟨0, .regRead 2⟩]) := by decide

/-- `withFetchWord` places LDA #0x42 where the next step runs it, from reset. -/
theorem test_withFetchWord :
    afterStep (fun t => (t.a, t.pc)) (State.reset.withFetchWord 16 0x42A9) = some (0x42, 0x0002) := by decide

/-! ### Witnesses of the statements' hypotheses -/

/-- A state for witnesses: NOP at 0x0200, IRQ latched but masked. -/
def atNop : State := { before 0x0200 0x01 0x02 0x03 0xFD 0x24 [0xEA] [] with irqPending := true }

/-- A state for witnesses under the NES map. -/
def onNes : State := { atNop with params := { Params.default with map := nesMapDefault } }

theorem instructionNext_atNop : InstructionNext atNop := by
  unfold InstructionNext; decide

theorem inv_atNop : Inv atNop := by
  unfold Inv MemoryCanonical; decide

theorem step_atNop : step atNop = .next (endTick (noteTrap 0x0200 { atNop with pc := 0x0201, rem := 2 })) := by rfl

theorem witness_DecodeOfEncode :
    WellFormed (shapeOf []) (.lda (.mem (.abx 0xFFFF))) = true ∧
    WellFormed (shapeOf [(0x02, ⟨.ind, 9, true⟩)]) (.kil 0x02 (.ind 0xFFFF)) = true := by decide

theorem witness_EncodeOfDecode : decode [] [0xBD, 0xFF, 0x12, 0x00] = .ok (.lda (.mem (.abx 0x12FF)), [0x00]) := by rfl

theorem witness_StepRunsFetchedInstruction : InstructionNext atNop ∧ InstructionNext State.reset :=
  ⟨instructionNext_atNop, by unfold InstructionNext; decide⟩

/-- Also at the end of the address space, where PC wraps (R25). -/
theorem witness_StepRunsDecodedInstruction :
    InstructionNext atNop ∧ PlainFrom atNop atNop.pc 1 ∧
      decode atNop.params.unoffShape (bytesAt atNop atNop.pc 1) = .ok (.nop, []) ∧
    InstructionNext { atNop with pc := 0xFFFF } ∧ PlainFrom { atNop with pc := 0xFFFF } 0xFFFF 1 ∧
      decode [] (bytesAt { atNop with pc := 0xFFFF } 0xFFFF 1) = .ok (.brk, []) :=
  ⟨instructionNext_atNop, by unfold PlainFrom; decide, by rfl, by unfold InstructionNext; decide, by unfold PlainFrom; decide,
    by rfl⟩

theorem witness_BudgetCountsDown :
    ({ atNop with rem := 4 } : State).ready = true ∧ ({ atNop with rem := 4 } : State).dmaCount = 0 ∧
    3 < ({ atNop with rem := 4 } : State).rem := by decide

theorem witness_StepFaultsNever :
    atNop.ready = true ∧ (State.construct Params.default [] 0x00 0x00 0x00).ready = false := by decide

/-- One state per clause: an instruction, an NMI, and a countdown. -/
theorem witness_TrapObservesSelfLoop :
    (∃ t, step atNop = .next t ∧ atNop.dmaCount = 0 ∧ InstructionNext atNop) ∧
    (∃ t, step { atNop with nmiPending := true } = .next t ∧ ({ atNop with nmiPending := true } : State).rem ≤ 1 ∧
      ¬ InstructionNext { atNop with nmiPending := true }) ∧
    (∃ t, step { atNop with rem := 2 } = .next t ∧ 1 < ({ atNop with rem := 2 } : State).rem) :=
  ⟨⟨_, step_atNop, rfl, instructionNext_atNop⟩, ⟨_, rfl, by decide, by unfold InstructionNext; decide⟩,
    ⟨_, rfl, by decide⟩⟩

/-- The pointer bytes at the wrap of page 0. -/
theorem witness_PointerFormsWrap :
    backing atNop (zeroPage (0xFD + atNop.x)) = some 0xFF ∧ backing atNop (zeroPage (0xFD + atNop.x + 1)) = some 0x00 ∧
    backing atNop (zeroPage 0xFF) = some 0xFF ∧ backing atNop (zeroPage (0xFF + 1)) = some 0x00 := by decide

/-- One address per device, at the edges of the map. -/
theorem witness_OperandReadsDevice :
    backing onNes (resolve (.abs 0x1FFF) onNes).ea = some 0x07FF ∧ backing onNes (resolve (.abs 0x4020) onNes).ea = some 0x4020 ∧
    deviceAt onNes.params.map (resolve (.abs 0x401F) onNes).ea = .apu ∧
    deviceAt onNes.params.map (resolve (.abs 0x4014) onNes).ea = .dmaTrigger ∧
    deviceAt onNes.params.map (resolve (.abs 0x3FFF) onNes).ea = .ppuReg 7 := by decide

theorem witness_JumpTargets :
    backing atNop 0x02FF = some 0x02FF ∧ backing atNop (word (hiByte 0x02FF) (loByte 0x02FF + 1)) = some 0x0200 := by decide

theorem witness_RtsPullsReturn :
    backing atNop (stackAddr (atNop.sp + 1)) = some 0x01FE ∧ backing atNop (stackAddr (atNop.sp + 2)) = some 0x01FF := by
  decide

/-- With SP = 0x00 the second push wraps in page 1. -/
theorem witness_RtsUndoesJsr :
    backing { atNop with sp := 0x00 } (stackAddr 0x00) = some 0x0100 ∧
    backing { atNop with sp := 0x00 } (stackAddr (0x00 - 1)) = some 0x01FF ∧ (0x0100 : Nat) ≠ 0x01FF ∧
    ∃ t u, exec (.jsr 0x0610) { atNop with sp := 0x00 } = .next t ∧ exec .rts t = .next u :=
  ⟨by decide, by decide, by decide, _, _, rfl, rfl⟩

/-- The third pull wraps in page 1. -/
theorem witness_RtiRestores :
    backing atNop (stackAddr (atNop.sp + 1)) = some 0x01FE ∧ backing atNop (stackAddr (atNop.sp + 2)) = some 0x01FF ∧
    backing atNop (stackAddr (atNop.sp + 3)) = some 0x0100 := by decide

theorem witness_PullsReadStack :
    backing { atNop with sp := 0xFF } (word 0x01 (({ atNop with sp := 0xFF } : State).sp + 1)) = some 0x0100 := by decide

/-- One instruction per register, each changing it. -/
theorem witness_RegisterWriters :
    (∃ t, exec (.lda (.imm 0x80)) atNop = .next t ∧ t.a ≠ atNop.a) ∧ (∃ t, exec .inx atNop = .next t ∧ t.x ≠ atNop.x) ∧
    (∃ t, exec .dey atNop = .next t ∧ t.y ≠ atNop.y) ∧ (∃ t, exec .txs atNop = .next t ∧ t.sp ≠ atNop.sp) :=
  ⟨⟨_, rfl, by decide⟩, ⟨_, rfl, by decide⟩, ⟨_, rfl, by decide⟩, ⟨_, rfl, by decide⟩⟩

/-- One instruction per flag, each changing it. -/
theorem witness_ControlFlagWriters :
    (∃ t, exec .cli atNop = .next t ∧ getFlag .i t.p ≠ getFlag .i atNop.p) ∧
    (∃ t, exec .sed atNop = .next t ∧ getFlag .d t.p ≠ getFlag .d atNop.p) ∧
    (∃ t, exec .plp { atNop with mem := [(0x01FE, 0x10)] } = .next t ∧ getFlag .b t.p ≠ getFlag .b atNop.p) :=
  ⟨⟨_, rfl, by decide⟩, ⟨_, rfl, by decide⟩, ⟨_, rfl, by decide⟩⟩

theorem witness_OnlyStoresStore :
    (∃ t, exec (.asl .acc) atNop = .next t) ∧
    (∀ m, Instr.asl .acc ∉ [Instr.sta m, .stx m, .sty m, .asl (.mem m), .lsr (.mem m), .rol (.mem m), .ror (.mem m), .inc m,
      .dec m]) ∧ (∀ a, Instr.asl .acc ≠ .jsr a) ∧ Instr.asl .acc ∉ [Instr.brk, .pha, .php] :=
  ⟨⟨_, rfl⟩, by simp, by simp, by simp⟩

/-- An NMI with I set and an IRQ latched too. -/
def nmiNext : State := { atNop with nmiPending := true }

/-- An IRQ alone with I clear, at the end of a budget. -/
def irqNext : State := { atNop with p := 0x20, rem := 1 }

theorem witness_InterruptsDispatch :
    nmiNext.ready = true ∧ nmiNext.dmaCount = 0 ∧ nmiNext.rem ≤ 1 ∧ nmiNext.nmiPending = true ∧
    irqNext.ready = true ∧ irqNext.dmaCount = 0 ∧ irqNext.rem ≤ 1 ∧ irqNext.nmiPending = false ∧
    irqNext.irqPending = true ∧ getFlag .i irqNext.p = false := by decide

theorem witness_LatchesClearOnlyWhenServiced :
    (∃ t, step atNop = .next t) ∧ (∃ t, step { atNop with nmiPending := true, rem := 2 } = .next t) ∧
    ∃ t, step { atNop with nmiPending := true, p := 0x20 } = .next t :=
  ⟨⟨_, rfl⟩, ⟨_, rfl⟩, ⟨_, rfl⟩⟩

/-- With SP = 0x01 the third push wraps in page 1. -/
def lowStack : State := { atNop with sp := 0x01 }

theorem witness_RtiUndoesInterrupt :
    backing lowStack (stackAddr lowStack.sp) = some 0x0101 ∧ backing lowStack (stackAddr (lowStack.sp - 1)) = some 0x0100 ∧
    backing lowStack (stackAddr (lowStack.sp - 2)) = some 0x01FF ∧ (0x0101 : Nat) ≠ 0x0100 ∧ (0x0101 : Nat) ≠ 0x01FF ∧
    (0x0100 : Nat) ≠ 0x01FF ∧ ∃ u, exec .rti (interruptSequence lowStack.pc false 0xFFFA lowStack) = .next u :=
  ⟨by decide, by decide, by decide, by decide, by decide, by decide, _, rfl⟩

theorem witness_TriggerWriteArmsDma : deviceAt onNes.params.map 0x4014 = .dmaTrigger := by decide

/-- The four counts at which the clauses meet: 513 to a dummy, 512 to a read, 511 to a write, 1 to the last write. -/
theorem witness_DmaTick :
    (moving 513 0x00).ready = true ∧ (moving 513 0x00).dmaCount ≠ 0 ∧ 512 ≤ (moving 513 0x00).dmaCount - 1 ∧
    (moving 512 0x00).dmaCount - 1 < 512 ∧ ((moving 512 0x00).dmaCount - 1) % 2 = 1 ∧
    (moving 511 0x00).dmaCount - 1 < 512 ∧ ((moving 511 0x00).dmaCount - 1) % 2 = 0 ∧
    (moving 1 0xFF).dmaCount ≠ 0 ∧ ((moving 1 0xFF).dmaCount - 1) % 2 = 0 := by decide

/-- A transfer just armed, under the flat map. -/
def armed (count : Nat) : State := { moving count 0x00 with params := Params.default }

theorem witness_DmaDeliversPage :
    (armed 513).ready = true ∧ ((armed 513).dmaCount = 513 ∨ (armed 513).dmaCount = 514) ∧ (armed 513).dmaLow = 0 ∧
    PlainFrom (armed 513) (word (armed 513).dmaPage 0) 256 ∧ ((armed 514).dmaCount = 513 ∨ (armed 514).dmaCount = 514) :=
  ⟨rfl, .inl rfl, rfl, fun _ _ => rfl, .inr rfl⟩

/-- An aligned state whose next tick reads. -/
theorem witness_DmaReadsOnEvenTicks :
    DmaAligned (moving 512 0x00) ∧ (moving 512 0x00).dmaCount ≠ 0 ∧ (moving 512 0x00).dmaCount - 1 < 512 ∧
    ((moving 512 0x00).dmaCount - 1) % 2 = 1 ∧ ∃ t, step (moving 512 0x00) = .next t :=
  ⟨by unfold DmaAligned; decide, by decide, by decide, by decide, _, rfl⟩

theorem witness_TicksKeepRatio : RatioHolds atNop ∧ ∃ t, ticks 2 atNop = .next t :=
  ⟨rfl, _, rfl⟩

/-- The mirror of RAM: two addresses of one byte, and two bytes. -/
theorem witness_ReadAfterWrite :
    backing onNes 0x0000 = some 0x0000 ∧ backing onNes 0x1800 = some 0x0000 ∧ backing onNes 0x07FF = some 0x07FF := by decide

theorem witness_SixteenBitReads :
    backing atNop 0xFFFF = some 0xFFFF ∧ backing atNop (0xFFFF + 1) = some 0x0000 ∧
    backing atNop (word (hiByte 0xFFFF) (loByte 0xFFFF + 1)) = some 0xFF00 ∧ loByte 0x02FE ≠ 0xFF := by decide

theorem witness_InvariantAfterReset : Memory.wf [(0x0000, 0x01), (0xFFFF, 0xFF)] = true := by decide

theorem witness_StepKeepsInvariant : Inv atNop ∧ ∃ t, step atNop = .next t := ⟨inv_atNop, _, step_atNop⟩

theorem witness_HostRunKeepsInvariant :
    Inv atNop ∧ ∃ t, hostRun [.loadBytes 0xFFFF [0x01], .raiseNmi, .write 0x0010 0x22, .reset, .tick] atNop = .next t :=
  ⟨inv_atNop, _, rfl⟩

theorem witness_RemStaysWithinEight :
    ({ atNop with rem := 8 } : State).params = Params.default ∧ ({ atNop with rem := 8 } : State).rem ≤ 8 ∧
    ∃ t, step { atNop with rem := 8 } = .next t :=
  ⟨rfl, by decide, _, rfl⟩

theorem witness_ResetSequence :
    dirty.params.resetClearsLatches = true ∧
    ({ dirty with params := { Params.default with resetClearsLatches := false } } : State).params.resetClearsLatches = false := by
  decide

/-- A load that ends at 0xFFFF, and one byte more. -/
theorem witness_HostMoves :
    (0xFFFE : Addr).toNat + [0x00, (0x80 : Byte)].length ≤ 0x10000 ∧
    0x10000 < (0xFFFE : Addr).toNat + [0x00, 0x80, (0x01 : Byte)].length := by decide

end Sys2Proof.Machine.Tests
end

/-! The invariant along steps and host moves (O54, O55, O56): every instruction completes, every tick and every other
host move keeps `Inv`. -/

namespace Sys2Proof.Machine

/-! ### Every instruction completes (R105, R114) -/

theorem execJmp_completes (j : JumpOperand) (s : State) : Completes s (execJmp j s) := by
  cases j with
  | abs a => exact finish_completes (Ran.refl s) _ _ _ _ _ _ _
  | ind a => exact finish_completes (readPair_ran _ _ s) _ _ _ _ _ _ _

/-- Every instruction answers a next state, in which U is set; outside the registers it does what `Ran` allows. -/
theorem exec_completes (i : Instr) (s : State) : Completes s (exec i s) := by
  cases i
  case lda o | ldx o | ldy o => exact finish_completes (loadOperand_ran o s) _ _ _ _ _ _ _
  case adc o | sbc o | and o | ora o | eor o =>
    simp only [exec, execAdc, execSbc, execAnd, execOra, execEor]
    exact accumulate_completes _ o s
  case cmp o | cpx o | cpy o => exact compareWith_completes _ o s
  case bit m => exact finish_completes (loadMem_ran m s) _ _ _ _ _ _ _
  case sta m | stx m | sty m => exact storeRegister_completes _ m s
  case asl o | lsr o | rol o | ror o => exact modify_completes _ o s
  case inc m | dec m => exact modifyMem_completes _ m s
  case tax | tay | txa | tya | tsx | txs | inx | iny | dex | dey | nop =>
    exact finish_completes (Ran.refl s) _ _ _ _ _ _ _
  case clc | sec | cli | sei | cld | sed | clv => exact writeFlag_completes _ _ s
  case bpl off | bmi off | bvc off | bvs off | bcc off | bcs off | bne off | beq off => exact branchIf_completes _ off s
  case jmp j => exact execJmp_completes j s
  case jsr a => exact finish_completes (pushWord_ran _ s) _ _ _ _ _ _ _
  case rts => exact finish_completes (pullWord_ran s) _ _ _ _ _ _ _
  case rti => exact finish_completes (returnFromInterrupt_ran s) _ _ _ _ _ _ _
  case brk => exact finish_completes (interruptSequence_ran _ _ _ s) _ _ _ _ _ _ _
  case pha | php => exact finish_completes (push_ran _ s) _ _ _ _ _ _ _
  case pla | plp => exact finish_completes (pull_ran s) _ _ _ _ _ _ _
  all_goals exact inert_completes _ _ s

/-- What an instruction that answered `t` did. -/
theorem exec_ran {i : Instr} {s t : State} (h : exec i s = .next t) : Ran s t ∧ getFlag .u t.p = true := by
  obtain ⟨t', ht', hran, hu⟩ := exec_completes i s
  obtain rfl := Host.Outcome.next.inj (h.symm.trans ht')
  exact ⟨hran, hu⟩

theorem Ran.params {s t : State} (h : Ran s t) : t.params = s.params := by
  obtain ⟨-, -, -, -, -, -, hparams⟩ := h.session
  exact hparams

theorem Inv.unusedSet {s : State} (h : Inv s) : getFlag .u s.p = true := h.2.1

/-! ### The pieces of a tick keep the invariant -/

/-- The low byte after each kind of DMA cycle: one more exactly after a write cycle (R308-R310). -/
theorem dmaStep_dmaLow (s : State) :
    (dmaStep s).dmaLow =
      if s.dmaCount - 1 < 512 ∧ (s.dmaCount - 1) % 2 = 0 then s.dmaLow + 1 else s.dmaLow := by
  by_cases hdummy : 512 ≤ s.dmaCount - 1
  · have hnot : ¬ (s.dmaCount - 1 < 512 ∧ (s.dmaCount - 1) % 2 = 0) := by omega
    rw [dmaStep_dummy hdummy, if_neg hnot]
  · by_cases hread : (s.dmaCount - 1) % 2 = 1
    · have hnot : ¬ (s.dmaCount - 1 < 512 ∧ (s.dmaCount - 1) % 2 = 0) := by omega
      rw [dmaStep_read (by omega) hread, if_neg hnot]
      exact busRead_dmaLow _ s
    · have hwrite : s.dmaCount - 1 < 512 ∧ (s.dmaCount - 1) % 2 = 0 := by omega
      rw [dmaStep_write hwrite.1 hwrite.2, if_pos hwrite]

/-- A DMA cycle keeps the invariant: the low byte moves with the countdown (R311). -/
theorem dmaStep_inv {s : State} (h : Inv s) (hd : s.dmaCount ≠ 0) : Inv (dmaStep s) := by
  obtain ⟨hmem, hu, hcount, hlow⟩ := h
  refine ⟨by simpa [MemoryCanonical] using hmem, by simpa using hu, by rw [dmaStep_dmaCount]; omega, ?_⟩
  rw [dmaStep_dmaLow, dmaStep_dmaCount]
  split_ifs with hwrite
  · have := toNat_add_one (w := 8) (by omega) s.dmaLow
    simp only [BitVec.ofNat_eq_ofNat] at *
    omega
  · omega

theorem endTick_inv {s : State} (h : Inv s) : Inv (endTick s) := h.congr rfl rfl rfl rfl

/-- Entering an interrupt keeps the invariant (R342). -/
theorem interruptSequence_inv {s : State} (h : Inv s) (ret : Addr) (b : Bool) (vec : Addr) :
    Inv (interruptSequence ret b vec s) :=
  h.of_ran (interruptSequence_ran ret b vec s) (by simpa using h.unusedSet)

theorem nmiSequence_inv {s : State} (h : Inv s) : Inv (nmiSequence s) :=
  (interruptSequence_inv h s.pc false nmiVector).congr rfl rfl rfl rfl

theorem irqSequence_inv {s : State} (h : Inv s) : Inv (irqSequence s) :=
  (interruptSequence_inv h s.pc false irqVector).congr rfl rfl rfl rfl

theorem endInterrupt_inv {s : State} (h : Inv s) : Inv (endInterrupt s) := h.congr rfl rfl rfl rfl

theorem noteTrap_inv {s : State} (h : Inv s) (before : Addr) : Inv (noteTrap before s) := h.congr rfl rfl rfl rfl

/-- Fetching and executing an instruction keeps the invariant (R100-R107). -/
theorem exec_fetch_inv {s t : State} (h : Inv s) (ht : exec (fetch s).1 (fetch s).2 = .next t) : Inv t := by
  obtain ⟨hran, hu⟩ := exec_ran ht
  exact h.of_ran ((fetch_ran s).trans hran) hu

/-! ### The tick and the other host moves -/

/-- Every tick keeps the invariant, by the cases of the tick. -/
theorem step_inv {s t : State} (h : Inv s) (hs : step s = .next t) : Inv t := by
  have h0 : Inv { s with rem := 0 } := h.congr rfl rfl rfl rfl
  obtain ⟨-, ⟨hd, rfl⟩ | ⟨-, -, rfl⟩ | ⟨-, -, -, rfl⟩ | ⟨-, -, -, -, -, rfl⟩ | ⟨-, u, hu, rfl⟩⟩ := step_cases hs
  · exact endTick_inv (dmaStep_inv h hd)
  · exact endTick_inv (h.congr rfl rfl rfl rfl)
  · exact endTick_inv (endInterrupt_inv (nmiSequence_inv h0))
  · exact endTick_inv (endInterrupt_inv (irqSequence_inv h0))
  · exact endTick_inv (noteTrap_inv (exec_fetch_inv h0 hu) s.pc)

/-- No tick changes the session's parameters (R41). -/
theorem step_params {s t : State} (hs : step s = .next t) : t.params = s.params := by
  obtain ⟨-, ⟨-, rfl⟩ | ⟨-, -, rfl⟩ | ⟨-, -, -, rfl⟩ | ⟨-, -, -, -, -, rfl⟩ | ⟨-, u, hu, rfl⟩⟩ := step_cases hs
  case inr.inr.inr.inr =>
    simpa using (exec_ran hu).1.params
  all_goals simp

/-- `reset()` from a state whose store and DMA are consistent gives the invariant: P is 0x34 (R380). -/
theorem resetProcessor_inv {s : State} (hm : MemoryCanonical s) (hc : s.dmaCount ≤ 514)
    (hl : s.dmaLow.toNat = (512 - s.dmaCount) / 2 % 256) : Inv (resetProcessor s) := by
  refine ⟨by simpa [MemoryCanonical] using hm, ?_, by simpa using hc, by simpa using hl⟩
  rw [resetProcessor_p]; decide

/-- What a load that was accepted did (R76). -/
theorem loadBytes_eq_next {start : Addr} {bytes : List Byte} {s t : State} (h : loadBytes start bytes s = .next t) :
    start.toNat + bytes.length ≤ 0x10000 ∧ t = { s with mem := s.mem.writeAll start.toNat bytes } := by
  unfold loadBytes at h
  split_ifs at h with hfits
  · exact ⟨hfits, (Host.Outcome.next.inj h).symm⟩

/-- Every host move keeps the invariant and the parameters (R41, R314). -/
theorem hostMove_inv {m : HostMove} {s t : State} (h : Inv s) (hm : hostMove m s = .next t) :
    Inv t ∧ t.params = s.params := by
  cases m with
  | loadBytes start bytes =>
    obtain ⟨hfits, rfl⟩ := loadBytes_eq_next hm
    obtain ⟨hmem, hrest⟩ := h
    exact ⟨⟨Memory.writeAll_wf hmem bytes hfits, hrest⟩, rfl⟩
  | reset =>
    obtain rfl := Host.Outcome.next.inj hm
    obtain ⟨hmem, -, hcount, hlow⟩ := h
    exact ⟨resetProcessor_inv hmem hcount hlow, resetProcessor_params s⟩
  | tick => exact ⟨step_inv h hm, step_params hm⟩
  | raiseNmi | raiseIrq =>
    obtain rfl := Host.Outcome.next.inj hm
    exact ⟨h.congr rfl rfl rfl rfl, rfl⟩
  | read addr =>
    obtain rfl := Host.Outcome.next.inj hm
    exact ⟨h.of_ran (busRead_ran addr s) (by simpa using h.unusedSet), busRead_params addr s⟩
  | write addr v =>
    obtain rfl := Host.Outcome.next.inj hm
    exact ⟨h.of_ran (busWrite_ran addr v s) (by simpa using h.unusedSet), busWrite_params addr v s⟩

/-- A run that answers a next state made its first move and then the rest from there (R321). -/
theorem hostRun_cons_eq_next {m : HostMove} {rest : List HostMove} {s t : State}
    (h : hostRun (m :: rest) s = .next t) : ∃ u, hostMove m s = .next u ∧ hostRun rest u = .next t := by
  rw [hostRun] at h
  cases hm : hostMove m s with
  | next u => exact ⟨u, rfl, by simpa [hm] using h⟩
  | fault e => cases e
  | refused e => simp [hm] at h

/-! ### The obligations -/

/-- Settles O55, by the cases of the tick. -/
theorem stepKeepsInvariant : Obligations.StepKeepsInvariant := fun _ _ => step_inv

/-- Settles O56, by induction on the list of host moves. -/
theorem hostRunKeepsInvariant : Obligations.HostRunKeepsInvariant := by
  intro moves
  induction moves with
  | nil =>
    intro s t h hrun
    obtain rfl := Host.Outcome.next.inj hrun
    exact ⟨h, rfl⟩
  | cons m rest ih =>
    intro s t h hrun
    obtain ⟨u, hmove, hrest⟩ := hostRun_cons_eq_next hrun
    obtain ⟨hu, hparams⟩ := hostMove_inv h hmove
    obtain ⟨ht, hparams'⟩ := ih u t hu hrest
    exact ⟨ht, hparams'.trans hparams⟩

/-- Settles O54: nothing is in flight after construction, so all three invariants are about zeros. -/
theorem invariantAfterReset : Obligations.InvariantAfterReset := by
  have constructed : ∀ (params : Params) (mem : Memory) (a x y : Byte), mem.wf = true →
      Inv (resetProcessor (State.construct params mem a x y)) ∧
      DmaAligned (resetProcessor (State.construct params mem a x y)) ∧
      RatioHolds (resetProcessor (State.construct params mem a x y)) := by
    intro params mem a x y hmem
    have hinv := resetProcessor_inv (s := State.construct params mem a x y) hmem (by simp [State.construct])
      (by simp [State.construct])
    refine ⟨hinv, fun hd => absurd (resetProcessor_dmaCount _) hd, ?_⟩
    simp [RatioHolds, State.construct]
  refine ⟨constructed, ?_⟩
  rw [reset_eq_resetProcessor]
  exact constructed Params.default [] 0x00 0x00 0x00 rfl

end Sys2Proof.Machine

/-! What an instruction writes (O40, O41): the registers and flags of each mnemonic, as lists, and one lemma per shared
operation that it leaves every other register and flag as it was. -/

namespace Sys2Proof.Machine

/-- The byte registers an instruction can write (R21-R24). -/
inductive Register
  | a | x | y | sp

/-- A shift or rotate writes A in its accumulator form only (R123). -/
def RmwOperand.registersWritten : RmwOperand → List Register
  | .acc => [.a]
  | .mem _ => []

/-- The registers an instruction may change. -/
def Instr.registersWritten : Instr → List Register
  | .lda _ | .adc _ | .sbc _ | .and _ | .ora _ | .eor _ | .txa | .tya => [.a]
  | .pla => [.a, .sp]
  | .asl o | .lsr o | .rol o | .ror o => RmwOperand.registersWritten o
  | .ldx _ | .tax | .tsx | .inx | .dex => [.x]
  | .ldy _ | .tay | .iny | .dey => [.y]
  | .jsr _ | .txs | .pha | .php | .plp | .rts | .rti | .brk => [.sp]
  | .sta _ | .stx _ | .sty _ | .bit _ | .cmp _ | .cpx _ | .cpy _ | .inc _ | .dec _ | .bpl _ | .bmi _ | .bvc _ | .bvs _
  | .bcc _ | .bcs _ | .bne _ | .beq _ | .jmp _ | .clc | .sec | .cli | .sei | .cld | .sed | .clv | .nop
  | .kil _ _ | .slo _ _ | .rla _ _ | .sre _ _ | .rra _ _ | .sax _ _ | .lax _ _ | .dcp _ _ | .isc _ _ | .anc _ _
  | .alr _ _ | .arr _ _ | .xaa _ _ | .lxa _ _ | .axs _ _ | .usbc _ _ | .ahx _ _ | .shy _ _ | .shx _ _ | .tas _ _
  | .las _ _ | .nopUnofficial _ _ => []

/-- The flags an instruction may change, U aside, which every instruction sets (R106). -/
def Instr.flagsWritten : Instr → List Flag
  | .adc _ | .sbc _ => [.n, .v, .z, .c]
  | .cmp _ | .cpx _ | .cpy _ | .asl _ | .lsr _ | .rol _ | .ror _ => [.n, .z, .c]
  | .bit _ => [.n, .v, .z]
  | .lda _ | .ldx _ | .ldy _ | .tax | .tay | .txa | .tya | .tsx | .and _ | .ora _ | .eor _
  | .inc _ | .dec _ | .inx | .iny | .dex | .dey | .pla => [.n, .z]
  | .plp | .rti => [.n, .v, .b, .d, .i, .z, .c]
  | .brk | .cli | .sei => [.i]
  | .clc | .sec => [.c]
  | .cld | .sed => [.d]
  | .clv => [.v]
  | .sta _ | .stx _ | .sty _ | .txs | .bpl _ | .bmi _ | .bvc _ | .bvs _ | .bcc _ | .bcs _ | .bne _ | .beq _ | .jmp _
  | .jsr _ | .rts | .pha | .php | .nop
  | .kil _ _ | .slo _ _ | .rla _ _ | .sre _ _ | .rra _ _ | .sax _ _ | .lax _ _ | .dcp _ _ | .isc _ _ | .anc _ _
  | .alr _ _ | .arr _ _ | .xaa _ _ | .lxa _ _ | .axs _ _ | .usbc _ _ | .ahx _ _ | .shy _ _ | .shx _ _ | .tas _ _
  | .las _ _ | .nopUnofficial _ _ => []

/-- Every register not listed is as before. -/
def RegistersKept (written : List Register) (s t : State) : Prop :=
  (.a ∉ written → t.a = s.a) ∧ (.x ∉ written → t.x = s.x) ∧ (.y ∉ written → t.y = s.y) ∧ (.sp ∉ written → t.sp = s.sp)

/-- Every flag not listed is as before. -/
def StatusKept (written : List Flag) (p q : Byte) : Prop := ∀ f, f ∉ written → f ≠ .u → getFlag f q = getFlag f p

/-- The outcome is a next state that differs from `s` in no register and no flag but those listed and U. -/
def Writes (regs : List Register) (flags : List Flag) (s : State) (r : Host.Outcome State Fault Refusal) : Prop :=
  ∃ t, r = .next t ∧ RegistersKept regs s t ∧ StatusKept flags s.p t.p

/-! ### The flag computations -/

theorem StatusKept.refl (written : List Flag) (p : Byte) : StatusKept written p p := fun _ _ _ => rfl

theorem statusKept_setNZ (v p : Byte) : StatusKept [.n, .z] p (setNZ v p) := by
  simp +contextual [StatusKept]

theorem statusKept_setFlag (g : Flag) (on : Bool) (p : Byte) : StatusKept [g] p (setFlag g on p) := by
  simp +contextual [StatusKept]

theorem statusKept_addWithCarry (a m p : Byte) : StatusKept [.n, .v, .z, .c] p (addWithCarry a m p).status := by
  simp +contextual [StatusKept, addWithCarry]

theorem statusKept_compareStatus (reg m p : Byte) : StatusKept [.n, .z, .c] p (compareStatus reg m p) := by
  simp +contextual [StatusKept, compareStatus]

theorem statusKept_bitTestStatus (a m p : Byte) : StatusKept [.n, .v, .z] p (bitTestStatus a m p) := by
  simp +contextual [StatusKept, bitTestStatus]

/-- Every shift and rotate writes C and then N and Z. -/
theorem statusKept_setNZ_setFlag_c (v : Byte) (on : Bool) (p : Byte) :
    StatusKept [.n, .z, .c] p (setNZ v (setFlag .c on p)) := by
  simp +contextual [StatusKept]

/-- PLP and RTI may write every flag (R212, R233). -/
theorem statusKept_all (p q : Byte) : StatusKept [.n, .v, .b, .d, .i, .z, .c] p q := by
  intro f hw hu
  cases f <;> simp at hw hu

/-! ### The shared operations -/

/-- The end of an instruction writes U and `rem` only (R106, R107). -/
theorem finish_writes {regs : List Register} {flags : List Flag} {s t : State} (hr : RegistersKept regs s t)
    (hf : StatusKept flags s.p t.p) (n : Nat) : Writes regs flags s (finish n t) :=
  ⟨_, rfl, hr, fun f hw hu => by simpa [hu] using hf f hw hu⟩

theorem accumulate_writes {f : Byte → Byte → Byte → Computed} {flags : List Flag}
    (hf : ∀ a m p, StatusKept flags p (f a m p).status) (o : ReadOperand) (s : State) :
    Writes [.a] flags s (accumulate f o s) :=
  finish_writes (by simp [RegistersKept]) (by simpa using hf s.a (loadOperand o s).value s.p) _

theorem compareWith_writes (reg : Byte) (o : ReadOperand) (s : State) :
    Writes [] [.n, .z, .c] s (compareWith reg o s) :=
  finish_writes (by simp [RegistersKept]) (by simpa using statusKept_compareStatus reg (loadOperand o s).value s.p) _

theorem storeRegister_writes (v : Byte) (m : MemMode) (s : State) : Writes [] [] s (storeRegister v m s) :=
  finish_writes (by simp [RegistersKept]) (by simpa using StatusKept.refl [] s.p) _

theorem modifyMem_writes {f : Byte → Byte → Computed} {flags : List Flag}
    (hf : ∀ v p, StatusKept flags p (f v p).status) (m : MemMode) (s : State) :
    Writes [] flags s (modifyMem f m s) := by
  refine finish_writes (by simp [RegistersKept]) ?_ _
  have h := hf (busRead (resolve m s).ea (resolve m s).state).1 (busRead (resolve m s).ea (resolve m s).state).2.p
  simpa using h

theorem modify_writes {f : Byte → Byte → Computed} {flags : List Flag}
    (hf : ∀ v p, StatusKept flags p (f v p).status) (o : RmwOperand) (s : State) :
    Writes (RmwOperand.registersWritten o) flags s (modify f o s) := by
  cases o with
  | acc => exact finish_writes (by simp [RegistersKept, RmwOperand.registersWritten]) (hf s.a s.p) _
  | mem m => exact modifyMem_writes hf m s

theorem branchIf_writes (c : Bool) (off : Byte) (s : State) : Writes [] [] s (branchIf c off s) := by
  unfold branchIf
  split <;> exact finish_writes (by simp [RegistersKept]) (by exact StatusKept.refl [] s.p) _

theorem writeFlag_writes (f : Flag) (on : Bool) (s : State) : Writes [] [f] s (writeFlag f on s) :=
  finish_writes (by simp [RegistersKept]) (statusKept_setFlag f on s.p) _

theorem inert_writes (op : Byte) (o : Operand) (s : State) : Writes [] [] s (inert op o s) :=
  finish_writes (by simp [RegistersKept]) (by simpa using StatusKept.refl [] s.p) _

/-- An instruction that ends in `finish` with a byte's N and Z as its only new flags. -/
theorem finish_writes_setNZ {regs : List Register} {s t : State} (v : Byte) (hr : RegistersKept regs s t)
    (hp : t.p = setNZ v s.p) (n : Nat) : Writes regs [.n, .z] s (finish n t) :=
  finish_writes hr (hp ▸ statusKept_setNZ v s.p) n

/-- An instruction that ends in `finish` with P as it was. -/
theorem finish_writes_no_flag {regs : List Register} {s t : State} (hr : RegistersKept regs s t) (hp : t.p = s.p)
    (n : Nat) : Writes regs [] s (finish n t) :=
  finish_writes hr (hp ▸ StatusKept.refl [] s.p) n

/-! ### The instructions with a meaning of their own -/

theorem execLda_writes (o : ReadOperand) (s : State) : Writes [.a] [.n, .z] s (execLda o s) :=
  finish_writes_setNZ (loadOperand o s).value (by simp [RegistersKept]) (by simp) _

theorem execLdx_writes (o : ReadOperand) (s : State) : Writes [.x] [.n, .z] s (execLdx o s) :=
  finish_writes_setNZ (loadOperand o s).value (by simp [RegistersKept]) (by simp) _

theorem execLdy_writes (o : ReadOperand) (s : State) : Writes [.y] [.n, .z] s (execLdy o s) :=
  finish_writes_setNZ (loadOperand o s).value (by simp [RegistersKept]) (by simp) _

theorem execAnd_writes (o : ReadOperand) (s : State) : Writes [.a] [.n, .z] s (execAnd o s) := by
  unfold execAnd
  exact accumulate_writes (fun a m p => statusKept_setNZ (a &&& m) p) o s

theorem execOra_writes (o : ReadOperand) (s : State) : Writes [.a] [.n, .z] s (execOra o s) := by
  unfold execOra
  exact accumulate_writes (fun a m p => statusKept_setNZ (a ||| m) p) o s

theorem execEor_writes (o : ReadOperand) (s : State) : Writes [.a] [.n, .z] s (execEor o s) := by
  unfold execEor
  exact accumulate_writes (fun a m p => statusKept_setNZ (a ^^^ m) p) o s

theorem execBit_writes (m : MemMode) (s : State) : Writes [] [.n, .v, .z] s (execBit m s) :=
  finish_writes (by simp [RegistersKept]) (by simpa using statusKept_bitTestStatus s.a (loadMem m s).value s.p) _

/-- TXA and TYA. -/
theorem setA_writes (v : Byte) (s : State) : Writes [.a] [.n, .z] s (finish 2 { s with a := v, p := setNZ v s.p }) :=
  finish_writes_setNZ v (by simp [RegistersKept]) rfl 2

/-- TAX, TSX, INX and DEX. -/
theorem setX_writes (v : Byte) (s : State) : Writes [.x] [.n, .z] s (finish 2 { s with x := v, p := setNZ v s.p }) :=
  finish_writes_setNZ v (by simp [RegistersKept]) rfl 2

/-- TAY, INY and DEY. -/
theorem setY_writes (v : Byte) (s : State) : Writes [.y] [.n, .z] s (finish 2 { s with y := v, p := setNZ v s.p }) :=
  finish_writes_setNZ v (by simp [RegistersKept]) rfl 2

theorem execTxs_writes (s : State) : Writes [.sp] [] s (execTxs s) :=
  finish_writes_no_flag (by simp [RegistersKept]) (by rfl) 2

theorem execNop_writes (s : State) : Writes [] [] s (execNop s) :=
  finish_writes_no_flag (by simp [RegistersKept]) (by rfl) 2

theorem execJmp_writes (j : JumpOperand) (s : State) : Writes [] [] s (execJmp j s) :=
  finish_writes_no_flag (by simp [RegistersKept]) (by simp) _

theorem execJsr_writes (target : Addr) (s : State) : Writes [.sp] [] s (execJsr target s) :=
  finish_writes_no_flag (by simp [RegistersKept]) (by simp) 6

theorem execRts_writes (s : State) : Writes [.sp] [] s (execRts s) :=
  finish_writes_no_flag (by simp [RegistersKept]) (by simp) 6

theorem execBrk_writes (s : State) : Writes [.sp] [.i] s (execBrk s) :=
  finish_writes (by simp [RegistersKept]) (by simpa using statusKept_setFlag .i true s.p) 7

/-- PHA and PHP. -/
theorem push_writes (v : Byte) (s : State) : Writes [.sp] [] s (finish 3 (push v s)) :=
  finish_writes_no_flag (by simp [RegistersKept]) (by simp) 3

theorem execPla_writes (s : State) : Writes [.a, .sp] [.n, .z] s (execPla s) :=
  finish_writes_setNZ (pull s).1 (by simp [RegistersKept]) (by simp) 4

theorem execPlp_writes (s : State) : Writes [.sp] [.n, .v, .b, .d, .i, .z, .c] s (execPlp s) :=
  finish_writes (by simp [RegistersKept]) (statusKept_all _ _) 4

theorem execRti_writes (s : State) : Writes [.sp] [.n, .v, .b, .d, .i, .z, .c] s (execRti s) :=
  finish_writes (by simp [RegistersKept]) (statusKept_all _ _) 6

/-! ### Every instruction -/

/-- An instruction changes no register and no flag but its own. -/
theorem exec_writes (i : Instr) (s : State) : Writes (Instr.registersWritten i) (Instr.flagsWritten i) s (exec i s) := by
  cases i
  case lda o => exact execLda_writes o s
  case ldx o => exact execLdx_writes o s
  case ldy o => exact execLdy_writes o s
  case adc o => exact accumulate_writes statusKept_addWithCarry o s
  case sbc o => exact accumulate_writes (fun a m p => statusKept_addWithCarry a (m ^^^ 0xFF) p) o s
  case and o => exact execAnd_writes o s
  case ora o => exact execOra_writes o s
  case eor o => exact execEor_writes o s
  case cmp o | cpx o | cpy o => exact compareWith_writes _ o s
  case bit m => exact execBit_writes m s
  case sta m | stx m | sty m => exact storeRegister_writes _ m s
  case asl o => exact modify_writes (f := shiftLeft) (fun v p => statusKept_setNZ_setFlag_c _ _ p) o s
  case lsr o => exact modify_writes (f := shiftRight) (fun v p => statusKept_setNZ_setFlag_c _ _ p) o s
  case rol o => exact modify_writes (f := rotateLeft) (fun v p => statusKept_setNZ_setFlag_c _ _ p) o s
  case ror o => exact modify_writes (f := rotateRight) (fun v p => statusKept_setNZ_setFlag_c _ _ p) o s
  case inc m => exact modifyMem_writes (f := increment) (fun v p => statusKept_setNZ (v + 1) p) m s
  case dec m => exact modifyMem_writes (f := decrement) (fun v p => statusKept_setNZ (v - 1) p) m s
  case txa | tya => exact setA_writes _ s
  case tax | tsx | inx | dex => exact setX_writes _ s
  case tay | iny | dey => exact setY_writes _ s
  case txs => exact execTxs_writes s
  case nop => exact execNop_writes s
  case clc | sec | cli | sei | cld | sed | clv => exact writeFlag_writes _ _ s
  case bpl off | bmi off | bvc off | bvs off | bcc off | bcs off | bne off | beq off => exact branchIf_writes _ off s
  case jmp j => exact execJmp_writes j s
  case jsr a => exact execJsr_writes a s
  case rts => exact execRts_writes s
  case rti => exact execRti_writes s
  case brk => exact execBrk_writes s
  case pha | php => exact push_writes _ s
  case pla => exact execPla_writes s
  case plp => exact execPlp_writes s
  all_goals exact inert_writes _ _ s

/-- The registers an instruction that answered `t` kept. -/
theorem exec_registersKept {i : Instr} {s t : State} (h : exec i s = .next t) :
    RegistersKept (Instr.registersWritten i) s t := by
  obtain ⟨t', ht', hregs, -⟩ := exec_writes i s
  obtain rfl := Host.Outcome.next.inj (h.symm.trans ht')
  exact hregs

/-- The flags an instruction that answered `t` kept. -/
theorem exec_statusKept {i : Instr} {s t : State} (h : exec i s = .next t) :
    StatusKept (Instr.flagsWritten i) s.p t.p := by
  obtain ⟨t', ht', -, hflags⟩ := exec_writes i s
  obtain rfl := Host.Outcome.next.inj (h.symm.trans ht')
  exact hflags

/-! ### The obligations -/

/-- The forms of a shift or rotate that write A. -/
theorem RmwOperand.mem_registersWritten {g : Register} {o : RmwOperand} (h : g ∈ RmwOperand.registersWritten o) :
    g = .a ∧ o = .acc := by
  cases o <;> simp_all [RmwOperand.registersWritten]

theorem writers_of_a {i : Instr} (h : .a ∈ Instr.registersWritten i) :
    (∃ o, i ∈ [Instr.lda o, .adc o, .sbc o, .and o, .ora o, .eor o]) ∨
      i ∈ [Instr.txa, .tya, .pla, .asl .acc, .lsr .acc, .rol .acc, .ror .acc] := by
  cases i
  case asl o | lsr o | rol o | ror o =>
    obtain ⟨-, rfl⟩ := RmwOperand.mem_registersWritten h
    simp
  all_goals simp [Instr.registersWritten] at h ⊢

theorem writers_of_x {i : Instr} (h : .x ∈ Instr.registersWritten i) :
    (∃ o, i = .ldx o) ∨ i ∈ [Instr.tax, .tsx, .inx, .dex] := by
  cases i
  case asl o | lsr o | rol o | ror o => cases (RmwOperand.mem_registersWritten h).1
  all_goals simp [Instr.registersWritten] at h ⊢

theorem writers_of_y {i : Instr} (h : .y ∈ Instr.registersWritten i) :
    (∃ o, i = .ldy o) ∨ i ∈ [Instr.tay, .iny, .dey] := by
  cases i
  case asl o | lsr o | rol o | ror o => cases (RmwOperand.mem_registersWritten h).1
  all_goals simp [Instr.registersWritten] at h ⊢

theorem writers_of_sp {i : Instr} (h : .sp ∈ Instr.registersWritten i) :
    (∃ a, i = .jsr a) ∨ i ∈ [Instr.txs, .pha, .php, .pla, .plp, .rts, .rti, .brk] := by
  cases i
  case asl o | lsr o | rol o | ror o => cases (RmwOperand.mem_registersWritten h).1
  all_goals simp [Instr.registersWritten] at h ⊢

/-- Settles O40: a register that differs is in the instruction's list of written registers. -/
theorem registerWriters : Obligations.RegisterWriters := by
  intro i s t h
  obtain ⟨ha, hx, hy, hsp⟩ := exec_registersKept h
  exact ⟨fun hne => writers_of_a (by_contra fun hw => hne (ha hw)),
    fun hne => writers_of_x (by_contra fun hw => hne (hx hw)),
    fun hne => writers_of_y (by_contra fun hw => hne (hy hw)),
    fun hne => writers_of_sp (by_contra fun hw => hne (hsp hw))⟩

/-- A flag other than U that differs after an instruction is in the instruction's list of written flags. -/
theorem mem_flagsWritten_of_ne {i : Instr} {s t : State} (h : exec i s = .next t) {f : Flag} (hu : f ≠ .u)
    (hne : getFlag f t.p ≠ getFlag f s.p) : f ∈ Instr.flagsWritten i :=
  by_contra fun hw => hne (exec_statusKept h f hw hu)

theorem writers_of_i {i : Instr} (h : .i ∈ Instr.flagsWritten i) : i ∈ [Instr.sei, .cli, .plp, .rti, .brk] := by
  cases i <;> simp [Instr.flagsWritten] at h ⊢

theorem writers_of_d {i : Instr} (h : .d ∈ Instr.flagsWritten i) : i ∈ [Instr.sed, .cld, .plp, .rti] := by
  cases i <;> simp [Instr.flagsWritten] at h ⊢

theorem writers_of_b {i : Instr} (h : .b ∈ Instr.flagsWritten i) : i ∈ [Instr.plp, .rti] := by
  cases i <;> simp [Instr.flagsWritten] at h ⊢

/-- Settles O41: a flag that differs is in the instruction's list of written flags. -/
theorem controlFlagWriters : Obligations.ControlFlagWriters := fun _ _ _ h =>
  ⟨fun hne => writers_of_i (mem_flagsWritten_of_ne h (by simp) hne),
    fun hne => writers_of_d (mem_flagsWritten_of_ne h (by simp) hne),
    fun hne => writers_of_b (mem_flagsWritten_of_ne h (by simp) hne)⟩

end Sys2Proof.Machine

/-! The budgets of the instructions under the default parameters, and the bound on `rem` (O57). -/

namespace Sys2Proof.Machine

/-! ### Budgets under the default parameters (R36, R107, R395) -/

theorem readCycles_le (o : ReadOperand) : readCycles o ≤ 6 := by
  cases o with
  | imm v => simp [readCycles]
  | mem m => cases m <;> simp [readCycles]

theorem storeCycles_le (m : MemMode) : storeCycles m ≤ 6 := by cases m <;> simp [storeCycles]

theorem rmwCycles_le (o : RmwOperand) : rmwCycles o ≤ 8 := by
  cases o with
  | acc => simp [rmwCycles]
  | mem m => cases m <;> simp [rmwCycles]

theorem readPenalty_le (crossed : Bool) : readPenalty crossed ≤ 1 := by cases crossed <;> decide

/-- No page-cross cycle on a store by default (R7, R108). -/
theorem writePenalty_default {s : State} (hp : s.params = Params.default) (crossed : Bool) : writePenalty crossed s = 0 := by
  simp [writePenalty, hp, Params.default]

/-- What holds of every listed shape holds of the one looked up. -/
theorem lookupShape_of_forall {P : Shape → Prop} {l : List (Byte × Shape)} (h : ∀ e ∈ l, P e.2) {op : Byte} {v : Shape}
    (hv : lookupShape l op = some v) : P v := by
  induction l with
  | nil => cases hv
  | cons e rest ih =>
    obtain ⟨hhead, htail⟩ := List.forall_mem_cons.mp h
    rw [lookupShape] at hv
    split_ifs at hv with hop
    · exact Option.some.inj hv ▸ hhead
    · exact ih htail hv

/-- The longest budget of an entry's shape with its page-cross cycle. -/
def Shape.longest (v : Shape) : Nat := v.cycles + if v.pagePenalty then 1 else 0

/-- The NMOS shapes take at most 8 cycles (R87, R252). -/
theorem shapeOf_nil_longest_le (op : Byte) : Shape.longest (shapeOf [] op) ≤ 8 := by
  have listed : ∀ e ∈ nmosShapes, Shape.longest e.2 ≤ 8 := by decide
  simp only [shapeOf, lookupShape]
  cases hv : lookupShape nmosShapes op with
  | none => simp [Shape.longest]
  | some v => exact lookupShape_of_forall (P := fun v => Shape.longest v ≤ 8) listed hv

/-- The budget of an instruction that answers a next state. -/
def RemAtMost (n : Nat) (r : Host.Outcome State Fault Refusal) : Prop := ∀ t, r = .next t → t.rem ≤ n

theorem finish_remAtMost {budget n : Nat} (h : budget ≤ n) (s : State) : RemAtMost n (finish budget s) := by
  intro t ht
  obtain rfl := Host.Outcome.next.inj ht
  exact h

/-- A read-type instruction: at most 6 base cycles and the page-cross cycle. -/
theorem finish_read_remAtMost (o : ReadOperand) (crossed : Bool) (s : State) :
    RemAtMost 8 (finish (readCycles o + readPenalty crossed) s) :=
  finish_remAtMost (by have := readCycles_le o; have := readPenalty_le crossed; omega) s

theorem storeRegister_remAtMost {s : State} (hp : s.params = Params.default) (v : Byte) (m : MemMode) :
    RemAtMost 8 (storeRegister v m s) :=
  finish_remAtMost (by rw [writePenalty_default hp]; have := storeCycles_le m; omega) _

theorem modifyMem_remAtMost {s : State} (hp : s.params = Params.default) (f : Byte → Byte → Computed) (m : MemMode) :
    RemAtMost 8 (modifyMem f m s) :=
  finish_remAtMost (by rw [writePenalty_default hp]; exact rmwCycles_le (.mem m)) _

theorem modify_remAtMost {s : State} (hp : s.params = Params.default) (f : Byte → Byte → Computed) (o : RmwOperand) :
    RemAtMost 8 (modify f o s) := by
  cases o with
  | acc => exact finish_remAtMost (by decide) _
  | mem m => exact modifyMem_remAtMost hp f m

theorem branchIf_remAtMost {s : State} (hp : s.params = Params.default) (c : Bool) (off : Byte) :
    RemAtMost 8 (branchIf c off s) := by
  unfold branchIf
  split
  · exact finish_remAtMost (by rw [hp]; decide) _
  · exact finish_remAtMost (by decide) _

theorem execJmp_remAtMost (j : JumpOperand) (s : State) : RemAtMost 8 (execJmp j s) := by
  cases j <;> exact finish_remAtMost (by simp) _

theorem inert_remAtMost {s : State} (hp : s.params = Params.default) (op : Byte) (o : Operand) :
    RemAtMost 8 (inert op o s) := by
  refine finish_remAtMost ?_ _
  have hlong := shapeOf_nil_longest_le op
  have hpen := readPenalty_le (resolveOnly o s).1
  have hshape : s.params.unoffShape = [] := by rw [hp]; rfl
  rw [unofficialPenalty, writePenalty_default hp, hshape]
  unfold Shape.longest at hlong
  split_ifs at hlong ⊢ <;> omega

/-- Every instruction takes at most 8 cycles under the default parameters (R36). -/
theorem exec_remAtMost {s : State} (hp : s.params = Params.default) (i : Instr) : RemAtMost 8 (exec i s) := by
  cases i
  case lda o | ldx o | ldy o => exact finish_read_remAtMost o _ _
  case adc o | sbc o | and o | ora o | eor o => exact finish_read_remAtMost o _ _
  case cmp o | cpx o | cpy o => exact finish_read_remAtMost o _ _
  case bit m => exact finish_read_remAtMost (.mem m) _ _
  case sta m | stx m | sty m => exact storeRegister_remAtMost hp _ m
  case asl o | lsr o | rol o | ror o => exact modify_remAtMost hp _ o
  case inc m | dec m => exact modifyMem_remAtMost hp _ m
  case tax | tay | txa | tya | tsx | txs | inx | iny | dex | dey | nop => exact finish_remAtMost (by decide) _
  case clc | sec | cli | sei | cld | sed | clv => exact finish_remAtMost (by decide) _
  case bpl off | bmi off | bvc off | bvs off | bcc off | bcs off | bne off | beq off =>
    exact branchIf_remAtMost hp _ off
  case jmp j => exact execJmp_remAtMost j s
  case jsr | rts | rti | brk | pha | php | pla | plp => exact finish_remAtMost (by decide) _
  all_goals exact inert_remAtMost hp _ _

/-- Settles O57: only a boundary loads `rem`, with an interrupt's 7 cycles or an instruction's at most 8. -/
theorem remStaysWithinEight : Obligations.RemStaysWithinEight := by
  intro s t hp hrem hs
  obtain ⟨-, ⟨-, rfl⟩ | ⟨-, -, rfl⟩ | ⟨-, -, -, rfl⟩ | ⟨-, -, -, -, -, rfl⟩ | ⟨-, u, hu, rfl⟩⟩ := step_cases hs
  · simpa using hrem
  · simp only [endTick_rem]; omega
  · simp [hp, Params.default]
  · simp [hp, Params.default]
  · exact exec_remAtMost (by simpa using hp) _ u hu

end Sys2Proof.Machine

/-! The decimal flag is neither read nor lost by ADC and SBC (O21). -/

namespace Sys2Proof.Machine

/-- Writing D commutes with writing another flag. -/
theorem setFlag_setFlag_d {f : Flag} (h : f ≠ .d) (v on : Bool) (p : Byte) :
    setFlag f v (setFlag .d on p) = setFlag .d on (setFlag f v p) := by
  apply status_ext
  intro g
  simp only [getFlag_setFlag]
  split_ifs with hf hd
  · exact absurd (hf.symm.trans hd) h
  all_goals rfl

/-- The add routine neither reads nor changes D (R161). -/
theorem addWithCarry_setFlag_d (a m p : Byte) (on : Bool) :
    addWithCarry a m (setFlag .d on p) =
      ⟨(addWithCarry a m p).result, setFlag .d on (addWithCarry a m p).status⟩ := by
  simp [addWithCarry, setNZ, setFlag_setFlag_d]

/-- An accumulator operation whose computation carries D along carries it along. -/
theorem accumulate_setFlag_d {f : Byte → Byte → Byte → Computed} {on : Bool}
    (hf : ∀ a m p, f a m (setFlag .d on p) = ⟨(f a m p).result, setFlag .d on (f a m p).status⟩) (o : ReadOperand)
    (s : State) :
    accumulate f o { s with p := setFlag .d on s.p } =
      onNext (fun t => { t with p := setFlag .d on t.p }) (accumulate f o s) := by
  simp [accumulate, loadOperand_withP, hf, finish, forceUnused, setFlag_setFlag_d]

/-- Settles O21: the add routine carries D along, and SBC is the add routine on the complement. -/
theorem decimalFlagIgnored : Obligations.DecimalFlagIgnored := by
  intro o on s i hi
  rcases List.mem_pair.mp hi with rfl | rfl
  · exact accumulate_setFlag_d (fun a m p => addWithCarry_setFlag_d a m p on) o s
  · exact accumulate_setFlag_d (fun a m p => addWithCarry_setFlag_d a (m ^^^ 0xFF) p on) o s

end Sys2Proof.Machine

/-! The fetch and the decoder (O5, O6), and the first tick after `reset()` (O59). -/

namespace Sys2Proof.Machine

/-! ### The fetch, by the number of operand bytes (R81, R102-R104) -/

theorem fetch_no_operand {s : State} (h : operandCount s.params.unoffShape (busRead s.pc s).1 = 0) :
    fetch s = (instrOf s.params.unoffShape (busRead s.pc s).1 0 0, advance 1 (busRead s.pc s).2) := by
  simp only [fetch, h]

/-- A skipped operand byte is looked at without an access (R260). -/
theorem fetch_skipped_byte {s : State} (h : operandCount s.params.unoffShape (busRead s.pc s).1 = 1)
    (hskip : skipsOperand (instrOf s.params.unoffShape (busRead s.pc s).1 0 0) = true) :
    fetch s = (instrOf s.params.unoffShape (busRead s.pc s).1 (peek (busRead s.pc s).2 (s.pc + 1)) 0,
      advance 2 (busRead s.pc s).2) := by
  simp only [fetch, h, hskip, if_true]

theorem fetch_one_byte {s : State} (h : operandCount s.params.unoffShape (busRead s.pc s).1 = 1)
    (hread : skipsOperand (instrOf s.params.unoffShape (busRead s.pc s).1 0 0) = false) :
    fetch s = (instrOf s.params.unoffShape (busRead s.pc s).1 (busRead (s.pc + 1) (busRead s.pc s).2).1 0,
      advance 2 (busRead (s.pc + 1) (busRead s.pc s).2).2) := by
  simp only [fetch, h, hread, Bool.false_eq_true, if_false]

theorem fetch_two_bytes {s : State} (h : operandCount s.params.unoffShape (busRead s.pc s).1 = 2) :
    fetch s = (instrOf s.params.unoffShape (busRead s.pc s).1 (busRead (s.pc + 1) (busRead s.pc s).2).1
        (busRead (s.pc + 2) (busRead (s.pc + 1) (busRead s.pc s).2).2).1,
      advance 3 (busRead (s.pc + 2) (busRead (s.pc + 1) (busRead s.pc s).2).2).2) := by
  simp only [fetch, h]

theorem advance_nothingStored (n : Nat) (s : State) : NothingStored s (advance n s) :=
  ⟨by simp [SameSession], by simp [SameDma], fun _ => rfl, [], rfl, rfl, by simp⟩

/-- The fetch forms the entry of the opcode byte, moves PC past the bytes of its mode, and stores nothing. -/
theorem fetch_spec (s : State) :
    (∃ b1 b2, (fetch s).1 = instrOf s.params.unoffShape (busRead s.pc s).1 b1 b2) ∧
    (fetch s).2.pc = s.pc + BitVec.ofNat 16 (1 + operandCount s.params.unoffShape (busRead s.pc s).1) ∧
    NothingStored s (fetch s).2 := by
  have hopc := busRead_nothingStored s.pc s
  have hle := operandCount_le s.params.unoffShape (busRead s.pc s).1
  obtain h | h | h : operandCount s.params.unoffShape (busRead s.pc s).1 = 0 ∨
      operandCount s.params.unoffShape (busRead s.pc s).1 = 1 ∨
      operandCount s.params.unoffShape (busRead s.pc s).1 = 2 := by omega
  · rw [fetch_no_operand h, h]
    exact ⟨⟨_, _, rfl⟩, by simp, hopc.trans (advance_nothingStored 1 _)⟩
  · cases hskip : skipsOperand (instrOf s.params.unoffShape (busRead s.pc s).1 0 0) with
    | true =>
      rw [fetch_skipped_byte h hskip, h]
      exact ⟨⟨_, _, rfl⟩, by simp, hopc.trans (advance_nothingStored 2 _)⟩
    | false =>
      rw [fetch_one_byte h hskip, h]
      exact ⟨⟨_, _, rfl⟩, by simp, (hopc.trans (busRead_nothingStored _ _)).trans (advance_nothingStored 2 _)⟩
  · rw [fetch_two_bytes h, h]
    exact ⟨⟨_, _, rfl⟩, by simp,
      ((hopc.trans (busRead_nothingStored _ _)).trans (busRead_nothingStored _ _)).trans (advance_nothingStored 3 _)⟩

/-- The table has a row for the instruction an opcode byte selects (R84-R87). -/
theorem wellFormed_instrOf (unoff : List (Byte × Shape)) (op b1 b2 : Byte) :
    WellFormed (shapeOf unoff) (instrOf unoff op b1 b2) = true := by
  refine byte_cases (P := fun op => WellFormed (shapeOf unoff) (instrOf unoff op b1 b2) = true) ?_ op
  apply forall_fin16 <;> apply forall_fin16 <;> first
    | rfl
    | exact beq_iff_eq.mpr (mode_operandOf _ b1 b2)

/-- A tick at a boundary with no interrupt, whole (R100, R101, R301). -/
theorem step_of_instructionNext {s : State} (h : InstructionNext s) :
    step s = onNext endTick (onNext (noteTrap s.pc) (exec (fetch { s with rem := 0 }).1 (fetch { s with rem := 0 }).2)) := by
  obtain ⟨hready, hdma, hrem, hnmi, hirq⟩ := h
  rw [step_boundary hready hdma hrem, dispatchBoundary_instruction (s := { s with rem := 0 }) hnmi hirq]
  rfl

/-- Settles O5, from what the fetch does with each number of operand bytes. -/
theorem stepRunsFetchedInstruction : Obligations.StepRunsFetchedInstruction := by
  intro s
  obtain ⟨⟨b1, b2, hi⟩, hpc, hstored⟩ := fetch_spec s
  refine ⟨step_of_instructionNext, ?_, ?_, ?_, fetch_p s, fetch_rem s, by simp [SameRegisters], hstored⟩
  · rw [hi, opcodeOf_instrOf]
  · rw [hi, wellFormed_instrOf]
  · rw [hpc, hi, mode_instrOf, BitVec.ofNat_add, ← BitVec.add_assoc]
    rfl

/-! ### The fetch of bytes of the store (R54, R58) -/

/-- A read where the store is behind the address is a look at it. -/
theorem busRead_of_isSome {addr : Addr} {s : State} (h : (backing s addr).isSome = true) :
    busRead addr s = (peek s addr, s) := by
  obtain ⟨i, hi⟩ := Option.isSome_iff_exists.mp h
  rw [busRead_of_backing hi, peek, hi]

/-- The bytes from an address on: the first, then those from the next address on. -/
theorem bytesAt_succ (s : State) (addr : Addr) (n : Nat) : bytesAt s addr (n + 1) = peek s addr :: bytesAt s (addr + 1) n := by
  have shift (k : Nat) : addr + BitVec.ofNat 16 (k + 1) = addr + 1 + BitVec.ofNat 16 k := by
    rw [Nat.add_comm, BitVec.ofNat_add, ← BitVec.add_assoc]; rfl
  simp only [bytesAt, List.range_succ_eq_map, List.map_cons, List.map_map]
  exact congrArg₂ List.cons (by simp) (List.map_congr_left fun k _ => congrArg (peek s) (shift k))

@[simp] theorem length_bytesAt (s : State) (addr : Addr) (n : Nat) : (bytesAt s addr n).length = n := by
  simp [bytesAt]

/-- When the decoder leaves nothing over, the list is the opcode and the operand bytes its mode takes (R80, R81). -/
theorem decode_eq_ok_nil {unoff : List (Byte × Shape)} {op : Byte} {rest : List Byte} {i : Instr}
    (h : decode unoff (op :: rest) = .ok (i, [])) :
    (operandCount unoff op = 0 ∧ rest = [] ∧ i = instrOf unoff op 0 0) ∨
    (operandCount unoff op = 1 ∧ ∃ b1, rest = [b1] ∧ i = instrOf unoff op b1 0) ∨
    (operandCount unoff op = 2 ∧ ∃ b1 b2, rest = [b1, b2] ∧ i = instrOf unoff op b1 b2) := by
  simp only [decode] at h
  split at h
  case h_1 hcount =>
    obtain ⟨rfl, rfl⟩ := Prod.mk.inj (Except.ok.inj h)
    exact .inl ⟨hcount, rfl, rfl⟩
  case h_2 b1 rest1 hcount =>
    obtain ⟨rfl, rfl⟩ := Prod.mk.inj (Except.ok.inj h)
    exact .inr (.inl ⟨hcount, b1, rfl, rfl⟩)
  case h_3 b1 b2 rest2 hcount =>
    obtain ⟨rfl, rfl⟩ := Prod.mk.inj (Except.ok.inj h)
    exact .inr (.inr ⟨hcount, b1, b2, rfl, rfl⟩)
  case h_4 => cases h

/-- Fetching plain bytes that decode to an instruction gives it, with nothing else changed than PC. -/
theorem fetch_of_decode {s : State} {n : Nat} {i : Instr} (hplain : PlainFrom s s.pc n)
    (h : decode s.params.unoffShape (bytesAt s s.pc n) = .ok (i, [])) : fetch s = (i, advance n s) := by
  have plainRead (k : Nat) (hk : k < n) : busRead (s.pc + BitVec.ofNat 16 k) s = (peek s (s.pc + BitVec.ofNat 16 k), s) :=
    busRead_of_isSome (hplain k hk)
  cases n with
  | zero => cases h
  | succ m =>
    have hopc : busRead s.pc s = (peek s s.pc, s) := by simpa using plainRead 0 (by omega)
    rw [bytesAt_succ] at h
    rcases decode_eq_ok_nil h with ⟨hcount, hrest, rfl⟩ | ⟨hcount, b1, hrest, rfl⟩ | ⟨hcount, b1, b2, hrest, rfl⟩
    · obtain rfl : m = 0 := by simpa using congrArg List.length hrest
      rw [fetch_no_operand (by rw [hopc]; exact hcount), hopc]
    · obtain rfl : m = 1 := by simpa using congrArg List.length hrest
      have hb1 : busRead (s.pc + 1) s = (peek s (s.pc + 1), s) := plainRead 1 (by omega)
      obtain rfl : peek s (s.pc + 1) = b1 := by
        rw [bytesAt_succ] at hrest; exact List.head_eq_of_cons_eq hrest
      cases hskip : skipsOperand (instrOf s.params.unoffShape (busRead s.pc s).1 0 0) with
      | true => rw [fetch_skipped_byte (by rw [hopc]; exact hcount) hskip, hopc]
      | false => rw [fetch_one_byte (by rw [hopc]; exact hcount) hskip, hopc, hb1]
    · obtain rfl : m = 2 := by simpa using congrArg List.length hrest
      have hb1 : busRead (s.pc + 1) s = (peek s (s.pc + 1), s) := plainRead 1 (by omega)
      have hb2 : busRead (s.pc + 2) s = (peek s (s.pc + 2), s) := plainRead 2 (by omega)
      have hnext : s.pc + 1 + 1 = s.pc + 2 := by bv_omega
      rw [bytesAt_succ, bytesAt_succ, hnext] at hrest
      obtain ⟨rfl, htail⟩ := List.cons.inj hrest
      obtain ⟨rfl, -⟩ := List.cons.inj htail
      rw [fetch_two_bytes (by rw [hopc]; exact hcount), hopc, hb1, hb2]

/-- Settles O6: on plain bytes the fetch is the decoder. -/
theorem stepRunsDecodedInstruction : Obligations.StepRunsDecodedInstruction := by
  intro s n i hnext hplain hdecode
  have hfetch : fetch { s with rem := 0 } = (i, advance n { s with rem := 0 }) := fetch_of_decode hplain hdecode
  rw [step_of_instructionNext hnext, hfetch]
  rfl

/-! ### The first tick after `reset()` (R380, R382) -/

/-- PC after `reset()` is the word at the reset vector. -/
@[simp] theorem resetProcessor_pc (s : State) : (resetProcessor s).pc = (read16 resetVector s).1 := by
  simp [resetProcessor, read16_withRegisters]

@[simp] theorem resetProcessor_nmiPending (s : State) :
    (resetProcessor s).nmiPending = (!s.params.resetClearsLatches && s.nmiPending) := by
  simp [resetProcessor]

@[simp] theorem resetProcessor_irqPending (s : State) :
    (resetProcessor s).irqPending = (!s.params.resetClearsLatches && s.irqPending) := by
  simp [resetProcessor]

/-- Settles O59: with the flat map the vector's bytes are those of the store, and nothing delays the first fetch. -/
theorem bootRunsVectorTarget : Obligations.BootRunsVectorTarget := by
  intro mem a x y s
  have hvector : read16 resetVector (State.construct Params.default mem a x y) =
      (word (mem.read 0xFFFD) (mem.read 0xFFFC), State.construct Params.default mem a x y) :=
    readPair_of_backing (i := 0xFFFC) (j := 0xFFFD) rfl rfl
  have hnext : InstructionNext s := by
    simp [s, InstructionNext, State.construct, Params.default]
  refine ⟨hnext, ?_, resetProcessor_mem _, resetProcessor_a _, resetProcessor_x _, resetProcessor_y _⟩
  rw [resetProcessor_pc, hvector]

end Sys2Proof.Machine

/-! Reads and writes by the device at the address (O14, O17, O46, O51, O53), the two maps (O52), the instructions that
store nothing (O42), and the host's moves (O60). -/

namespace Sys2Proof.Machine

/-! ### One access, by the device at its address (R54-R58) -/

/-- A peripheral register answers a free value, and sees the read (R55). -/
theorem busRead_of_ppuReg {addr : Addr} {s : State} {n : BitVec 3} (h : deviceAt s.params.map addr = .ppuReg n) :
    busRead addr s = (Config.periphRead s.draws, deliver (.regRead n) { s with draws := s.draws + 1 }) := by
  simp only [busRead, h]

/-- The audio stub reads as 0 (R56). -/
theorem busRead_of_apu {addr : Addr} {s : State} (h : deviceAt s.params.map addr = .apu) : busRead addr s = (0, s) := by
  simp only [busRead, h]

/-- The DMA trigger reads as 0 (R57). -/
theorem busRead_of_dmaTrigger {addr : Addr} {s : State} (h : deviceAt s.params.map addr = .dmaTrigger) :
    busRead addr s = (0, s) := by
  simp only [busRead, h]

/-- A write to the DMA trigger arms the transfer (R57, R306). -/
theorem busWrite_of_dmaTrigger {addr : Addr} {s : State} (h : deviceAt s.params.map addr = .dmaTrigger) (v : Byte) :
    busWrite addr v s = dmaArm v s := by
  simp only [busWrite, h]

/-- The countdown of a transfer armed on an even or an odd tick (R306). -/
theorem dmaArm_eq (v : Byte) (s : State) :
    dmaArm v s = { s with dmaCount := if s.cycles % 2 = 0 then 513 else 514, dmaPage := v, dmaLow := 0 } := by
  have hcount : 513 + s.cycles % 2 = if s.cycles % 2 = 0 then 513 else 514 := by split_ifs <;> omega
  rw [dmaArm, hcount]

/-- A write where the store is behind the address changes that byte of the store only (R54, R58). -/
theorem busWrite_of_backing {addr : Addr} {s : State} {i : Nat} (h : backing s addr = some i) (v : Byte) :
    busWrite addr v s = { s with mem := s.mem.write i v } := by
  unfold backing at h
  unfold busWrite
  cases hd : deviceAt s.params.map addr <;> rw [hd] at h <;> simp_all [storeIndex]

/-- Settles O46, from the read and the write at the trigger. -/
theorem triggerWriteArmsDma : Obligations.TriggerWriteArmsDma := by
  intro addr v s h
  exact ⟨(busWrite_of_dmaTrigger h v).trans (dmaArm_eq v s), busRead_of_dmaTrigger h⟩

/-- Settles O51: on plain bytes a read after a write is a read of the store after a write to it. -/
theorem readAfterWrite : Obligations.ReadAfterWrite := by
  intro s a b v i j ha hb
  have hb' : backing (busWrite a v s) b = some j := (backing_congr (busWrite_params a v s) b).trans hb
  rw [busRead_of_backing hb', busWrite_of_backing ha]
  exact Memory.read_write s.mem i v j

/-! ### 16-bit reads (R61, R62) -/

/-- Off the last byte of a page the next address in the page is the next address. -/
theorem word_hiByte_loByte_add_one {a : Addr} (h : loByte a ≠ 0xFF) : word (hiByte a) (loByte a + 1) = a + 1 := by
  rw [← hiByte_add_one h, ← loByte_add_one, word_hiByte_loByte]

/-- Settles O53: both are pairs of plain reads, and their second addresses agree inside a page. -/
theorem sixteenBitReads : Obligations.SixteenBitReads := by
  intro a s i j k hi hj hk
  refine ⟨readPair_of_backing hi hj, readPair_of_backing hi hk, fun hpage => ?_⟩
  rw [read16bug, word_hiByte_loByte_add_one hpage, read16]

/-! ### The maps (R59, R60) -/

/-- The first region that holds the address decides (R51). -/
theorem deviceAt_cons (r : Region) (rest : MemMap) (addr : Addr) :
    deviceAt (r :: rest) addr =
      if r.first.toNat ≤ addr.toNat ∧ addr.toNat ≤ r.last.toNat then regionDevice r.kind addr
      else deviceAt rest addr := by
  simp [deviceAt, inRegion]

/-- The register window repeats every 8 bytes (R60). -/
theorem regionDevice_ppuWindow (addr : Addr) : regionDevice .ppuWindow addr = .ppuReg (BitVec.ofNat 3 addr.toNat) := rfl

/-- The default NES map as a chain of ranges, in the map's order: the trigger first (R60). -/
theorem deviceAt_nesMapDefault (a : Addr) :
    deviceAt nesMapDefault a =
      if 0x4014 ≤ a.toNat ∧ a.toNat ≤ 0x4014 then .dmaTrigger
      else if 0x0000 ≤ a.toNat ∧ a.toNat ≤ 0x1FFF then .ram 0x0800
      else if 0x2000 ≤ a.toNat ∧ a.toNat ≤ 0x3FFF then .ppuReg (BitVec.ofNat 3 a.toNat)
      else if 0x4000 ≤ a.toNat ∧ a.toNat ≤ 0x401F then .apu
      else .fallback := by
  simp only [nesMapDefault, nesMap, deviceAt_cons, regionDevice_ppuWindow]
  rfl

/-- Settles O52: the trigger is one address of the audio stub's region, and the other regions follow each other. -/
theorem mapsDecode : Obligations.MapsDecode := by
  intro a
  refine ⟨rfl, ?_⟩
  rw [deviceAt_nesMapDefault]
  by_cases htrigger : a.toNat = 0x4014
  · simp [htrigger]
  · have hnot : ¬ (0x4014 ≤ a.toNat ∧ a.toNat ≤ 0x4014) := by omega
    rw [if_neg hnot, if_neg htrigger]
    grind

/-! ### Operands and stores (R66, R135, R143-R145) -/

/-- Loading from memory is one read at the effective address, after the pointer reads (R66, R135). -/
theorem loadMem_of_busRead {m : MemMode} {s t : State} {v : Byte}
    (h : busRead (resolve m s).ea (resolve m s).state = (v, t)) : loadMem m s = ⟨v, (resolve m s).crossed, t⟩ := by
  rw [loadMem, h]

/-- Settles O14, device by device; the pointer reads keep the map and the store. -/
theorem operandReadsDevice : Obligations.OperandReadsDevice := by
  intro m s
  refine ⟨fun _ => rfl, rfl, fun i hi => ?_, fun hd => ?_, fun n hd => ?_⟩
  · have hi' : backing (resolve m s).state (resolve m s).ea = some i := (backing_congr (resolve_params m s) _).trans hi
    rw [loadOperand, loadMem_of_busRead (busRead_of_backing hi'), resolve_mem]
    exact ⟨rfl, rfl⟩
  · rw [← resolve_params m s] at hd
    rw [loadOperand, loadMem_of_busRead (hd.elim busRead_of_apu busRead_of_dmaTrigger)]
    exact ⟨rfl, rfl⟩
  · rw [← resolve_params m s] at hd
    rw [loadOperand, loadMem_of_busRead (busRead_of_ppuReg hd)]
    simp

theorem flagsKept_forceUnused (p : Byte) : FlagsKept [] p (forceUnused p) := by
  simp +contextual [FlagsKept]

/-- A store of a register, whole: one byte written at the effective address after the pointer reads (R143). -/
theorem storeRegister_spec (v : Byte) (m : MemMode) (s : State) :
    ∃ t, storeRegister v m s = .next t ∧ ByteWritten (resolve m s).ea v (resolve m s).state t ∧ SameSession s t ∧
      SameRegisters s t ∧ t.pc = s.pc ∧ FlagsKept [] s.p t.p ∧
      t.rem = storeCycles m + if (resolve m s).crossed && s.params.penaltyOnWrites then 1 else 0 :=
  ⟨_, rfl, busWrite_byteWritten _ v _, by simp [SameSession], by simp [SameRegisters], by simp,
    by simpa using flagsKept_forceUnused s.p, rfl⟩

/-- Settles O17: the three stores are one operation on three registers. -/
theorem storesWriteOneByte : Obligations.StoresWriteOneByte := by
  intro m s
  refine ⟨resolve_nothingStored m s, fun c hc => ?_⟩
  simp only [List.mem_cons, List.not_mem_nil, or_false] at hc
  obtain rfl | rfl | rfl := hc
  · exact storeRegister_spec s.a m s
  · exact storeRegister_spec s.x m s
  · exact storeRegister_spec s.y m s

/-! ### The instructions that store nothing (R66) -/

/-- The outcome is a next state, reached without storing anything. -/
def StoresNothing (s : State) (r : Host.Outcome State Fault Refusal) : Prop := ∃ t, r = .next t ∧ NothingStored s t

/-- The end of an instruction stores nothing, with whatever registers: `NothingStored` does not speak of them. -/
theorem finish_storesNothing {s t : State} (h : NothingStored s t) (a x y sp p : Byte) (pc : Addr) (n : Nat) :
    StoresNothing s (finish n { t with a := a, x := x, y := y, sp := sp, p := p, pc := pc }) :=
  ⟨_, rfl, h⟩

theorem branchIf_storesNothing (c : Bool) (off : Byte) (s : State) : StoresNothing s (branchIf c off s) := by
  rw [branchIf_eq]
  exact ⟨_, rfl, NothingStored.refl s⟩

/-- A shift or rotate that is of no byte of memory is of the accumulator. -/
theorem modify_storesNothing (f : Byte → Byte → Computed) {o : RmwOperand} (h : ∀ m, o ≠ .mem m) (s : State) :
    StoresNothing s (modify f o s) := by
  cases o with
  | acc => exact finish_storesNothing (NothingStored.refl s) _ _ _ _ _ _ _
  | mem m => exact absurd rfl (h m)

/-- The instructions outside the three groups that write to the address space complete and store nothing. -/
theorem exec_storesNothing {i : Instr} (hmem : ∀ m, i ∉ [Instr.sta m, .stx m, .sty m, .asl (.mem m), .lsr (.mem m),
      .rol (.mem m), .ror (.mem m), .inc m, .dec m])
    (hjsr : ∀ a, i ≠ .jsr a) (hpush : i ∉ [Instr.brk, .pha, .php]) (s : State) : StoresNothing s (exec i s) := by
  cases i
  case sta m | stx m | sty m | inc m | dec m => exact absurd (by simp) (hmem m)
  case asl o | lsr o | rol o | ror o =>
    exact modify_storesNothing _ (fun m hm => hmem m (by simp [hm])) s
  case jsr a => exact absurd rfl (hjsr a)
  case brk | pha | php => exact absurd (by simp) hpush
  case lda o | ldx o | ldy o | adc o | sbc o | and o | ora o | eor o | cmp o | cpx o | cpy o =>
    exact finish_storesNothing (loadOperand_nothingStored o s) _ _ _ _ _ _ _
  case bit m => exact finish_storesNothing (loadMem_nothingStored m s) _ _ _ _ _ _ _
  case tax | tay | txa | tya | tsx | txs | inx | iny | dex | dey | clc | sec | cli | sei | cld | sed | clv | nop =>
    exact finish_storesNothing (NothingStored.refl s) _ _ _ _ _ _ _
  case bpl off | bmi off | bvc off | bvs off | bcc off | bcs off | bne off | beq off =>
    exact branchIf_storesNothing _ off s
  case jmp j => exact finish_storesNothing (jumpTarget_nothingStored j s) _ _ _ _ _ _ _
  case rts => exact finish_storesNothing (pullWord_nothingStored s) _ _ _ _ _ _ _
  case rti => exact finish_storesNothing (returnFromInterrupt_nothingStored s) _ _ _ _ _ _ _
  case pla | plp => exact finish_storesNothing (pull_nothingStored s) _ _ _ _ _ _ _
  all_goals exact finish_storesNothing (resolveOnly_nothingStored _ s) _ _ _ _ _ _ _

/-- Settles O42: the outcome given is the one reached without storing anything. -/
theorem onlyStoresStore : Obligations.OnlyStoresStore := by
  intro i s t h hmem hjsr hpush
  obtain ⟨t', ht', hstored⟩ := exec_storesNothing hmem hjsr hpush s
  obtain rfl := Host.Outcome.next.inj (h.symm.trans ht')
  exact hstored

/-! ### The host's moves (R76, R315, R316) -/

theorem loadBytes_of_fits {start : Addr} {bytes : List Byte} (h : start.toNat + bytes.length ≤ 0x10000) (s : State) :
    loadBytes start bytes s = .next { s with mem := s.mem.writeAll start.toNat bytes } :=
  if_pos h

theorem loadBytes_past_end {start : Addr} {bytes : List Byte} (h : 0x10000 < start.toNat + bytes.length) (s : State) :
    loadBytes start bytes s = .refused .loadPastEnd :=
  if_neg (Nat.not_le.mpr h)

/-- Settles O60, move by move. -/
theorem hostMoves : Obligations.HostMoves := by
  intro s
  refine ⟨rfl, rfl, fun addr => ?read, fun addr v => ?write, fun start bytes hfits => ?load,
    fun start bytes hpast => loadBytes_past_end hpast s⟩
  case read =>
    exact ⟨_, rfl, busRead_nothingStored addr s, by simp [SameRegisters], by simp, by simp, by simp⟩
  case write =>
    exact ⟨_, rfl, busWrite_byteWritten addr v s, by simp [SameSession], by simp [SameRegisters], by simp, by simp,
      by simp⟩
  case load =>
    exact ⟨_, loadBytes_of_fits hfits s, Memory.read_writeAll s.mem start.toNat bytes⟩

end Sys2Proof.Machine

/-! Encoding and decoding: the round trips (O2, O3), the opcode map (O1, O4), and what the model says of every instruction
(O9) and of the base cycles (O15). -/

namespace Sys2Proof.Machine

/-! ### The decoder on a list of bytes (R80, R81) -/

/-- What the decoder answers: the opcode is followed by a field of as many bytes as the opcode alone says (R81), and the
instruction is the entry of the opcode with the bytes of that field. -/
theorem decode_cons_eq_ok_iff {unoff : List (Byte × Shape)} {op : Byte} {bytes rest : List Byte} {i : Instr} :
    decode unoff (op :: bytes) = .ok (i, rest) ↔
      ∃ field, bytes = field ++ rest ∧ field.length = operandCount unoff op ∧
        i = instrOf unoff op (field.getD 0 0) (field.getD 1 0) := by
  constructor
  · intro h
    simp only [decode] at h
    split at h
    case h_1 hcount =>
      obtain ⟨rfl, rfl⟩ := Prod.mk.inj (Except.ok.inj h)
      exact ⟨[], rfl, hcount.symm, rfl⟩
    case h_2 b1 rest1 hcount =>
      obtain ⟨rfl, rfl⟩ := Prod.mk.inj (Except.ok.inj h)
      exact ⟨[b1], rfl, hcount.symm, rfl⟩
    case h_3 b1 b2 rest2 hcount =>
      obtain ⟨rfl, rfl⟩ := Prod.mk.inj (Except.ok.inj h)
      exact ⟨[b1, b2], rfl, hcount.symm, rfl⟩
    case h_4 => cases h
  · rintro ⟨field, rfl, hlen, rfl⟩
    have hle := operandCount_le unoff op
    match field, hlen with
    | [], hlen | [_], hlen | [_, _], hlen => simp [decode, ← hlen]
    | _ :: _ :: _ :: _, hlen => simp at hlen; omega

/-! ### The entry of a well-formed instruction (R85-R87) -/

/-- An official mnemonic with one of its modes has an opcode byte, and that byte's entry in the opcode map, given the
instruction's operand bytes, is the instruction: R86 and R85 agree. -/
theorem instrOf_official (unoff : List (Byte × Shape)) {i : Instr} {b1 b2 : Byte} (hofficial : i.unofficial? = none)
    (hmode : i.officialModes.contains i.mode = true) (hoperand : i.operand = operandOf i.mode b1 b2) :
    ∃ op, opcodeOf i = some op ∧ instrOf unoff op b1 b2 = i := by
  -- In each form, `cases hoperand` names the operand bytes and `cases hmode` drops the form when the table lacks it.
  cases i
  case lda o | ldx o | ldy o | adc o | sbc o | and o | ora o | eor o | cmp o | cpx o | cpy o =>
    rcases o with v | m
    · cases hoperand
      exact ⟨_, rfl, rfl⟩
    · cases m
      all_goals
        cases hoperand
        cases hmode
      all_goals exact ⟨_, rfl, rfl⟩
  case sta m | stx m | sty m | bit m | inc m | dec m =>
    cases m
    all_goals
      cases hoperand
      cases hmode
    all_goals exact ⟨_, rfl, rfl⟩
  case asl o | lsr o | rol o | ror o =>
    rcases o with _ | m
    · exact ⟨_, rfl, rfl⟩
    · cases m
      all_goals
        cases hoperand
        cases hmode
      all_goals exact ⟨_, rfl, rfl⟩
  case jmp t =>
    cases t
    all_goals
      cases hoperand
      exact ⟨_, rfl, rfl⟩
  case jsr | bpl | bmi | bvc | bvs | bcc | bcs | bne | beq =>
    cases hoperand
    exact ⟨_, rfl, rfl⟩
  case tax | tay | txa | tya | tsx | txs | inx | iny | dex | dey | rts | rti | brk | pha | php | pla | plp | clc | sec
      | cli | sei | cld | sed | clv | nop =>
    exact ⟨_, rfl, rfl⟩
  all_goals cases hofficial

/-- An unofficial mnemonic with one of its opcode bytes is that byte's entry in the opcode map, with the operand that the
byte's shape makes of the operand bytes: R87 and R85 agree. -/
theorem instrOf_unofficial (unoff : List (Byte × Shape)) {i : Instr} {op b1 b2 : Byte} {o : Operand}
    (hunofficial : i.unofficial? = some (op, o)) (hop : op ∈ i.unofficialOpcodes)
    (hoperand : o = operandOf (shapeOf unoff op).mode b1 b2) : instrOf unoff op b1 b2 = i := by
  cases i
  all_goals cases hunofficial
  all_goals
    subst hoperand
    fin_cases hop
  all_goals rfl

/-- The operand an unofficial instruction carries is its operand. -/
theorem operand_of_unofficial {i : Instr} {op : Byte} {o : Operand} (h : i.unofficial? = some (op, o)) : i.operand = o := by
  cases i
  all_goals cases h
  all_goals rfl

/-- A well-formed instruction has an opcode byte, and is that byte's entry with the instruction's operand bytes. -/
theorem instrOf_of_wellFormed {unoff : List (Byte × Shape)} {i : Instr} {b1 b2 : Byte}
    (hwf : WellFormed (shapeOf unoff) i = true) (hoperand : i.operand = operandOf i.mode b1 b2) :
    ∃ op, opcodeOf i = some op ∧ instrOf unoff op b1 b2 = i := by
  unfold WellFormed at hwf
  split at hwf
  case h_1 op o hunofficial =>
    simp only [Bool.and_eq_true, List.contains_iff_mem, beq_iff_eq] at hwf
    obtain ⟨hop, hmode⟩ := hwf
    have ho : o = operandOf (shapeOf unoff op).mode b1 b2 := by
      rwa [Instr.mode, operand_of_unofficial hunofficial, hmode] at hoperand
    exact ⟨op, by simp only [opcodeOf, hunofficial], instrOf_unofficial unoff hunofficial hop ho⟩
  case h_2 hofficial => exact instrOf_official unoff hofficial hwf hoperand

/-! ### The round trips -/

theorem encode_of_opcodeOf {i : Instr} {op : Byte} (h : opcodeOf i = some op) : encode i = op :: operandField i.operand := by
  simp only [encode, h]

/-- Settles O2: the operand bytes of a well-formed instruction are the field its opcode calls for, and its opcode's entry with
those bytes is the instruction. -/
theorem decodeOfEncode : Obligations.DecodeOfEncode := by
  intro unoff i rest hwf
  have hoperand : i.operand =
      operandOf i.mode ((operandField i.operand).getD 0 0) ((operandField i.operand).getD 1 0) := by
    have h := operandOf_operandField i.operand []
    rw [List.append_nil] at h
    exact h.symm
  obtain ⟨op, hop, hi⟩ := instrOf_of_wellFormed hwf hoperand
  have hcount : (operandField i.operand).length = operandCount unoff op := by
    rw [length_operandField, ← Instr.mode, ← hi, mode_instrOf, operandCount]
  rw [encode_of_opcodeOf hop, List.cons_append, decode_cons_eq_ok_iff]
  exact ⟨operandField i.operand, rfl, hcount, hi.symm⟩

/-- The encoding of an opcode's entry is the opcode and as many of the operand bytes as it has (R80, R81). -/
theorem encode_instrOf (unoff : List (Byte × Shape)) (op b1 b2 : Byte) :
    encode (instrOf unoff op b1 b2) = op :: [b1, b2].take (operandCount unoff op) := by
  rw [encode_of_opcodeOf (opcodeOf_instrOf unoff op b1 b2), operand_instrOf, operandField_operandOf, operandCount]

/-- A field of at most two bytes is made of its first two bytes. -/
theorem take_length_getD {field : List Byte} (h : field.length ≤ 2) :
    [field.getD 0 0, field.getD 1 0].take field.length = field := by
  match field, h with
  | [], _ | [_], _ | [_, _], _ => rfl
  | _ :: _ :: _ :: _, h => simp at h

/-- Settles O3: the bytes of the field the decoder read are those the entry is encoded with. -/
theorem encodeOfDecode : Obligations.EncodeOfDecode := by
  intro unoff bytes rest i hdecode
  cases bytes with
  | nil => cases hdecode
  | cons op bytes =>
    obtain ⟨field, rfl, hlen, rfl⟩ := decode_cons_eq_ok_iff.mp hdecode
    rw [encode_instrOf, ← hlen, take_length_getD (hlen ▸ operandCount_le unoff op), List.cons_append]

/-! ### Every opcode byte -/

/-- The entry of an opcode byte is an unofficial instruction exactly when the NMOS shape table lists the byte (R87). -/
theorem isSome_unofficial?_instrOf (unoff : List (Byte × Shape)) (op b1 b2 : Byte) :
    (instrOf unoff op b1 b2).unofficial?.isSome = (lookupShape nmosShapes op).isSome := by
  refine byte_cases
    (P := fun op => (instrOf unoff op b1 b2).unofficial?.isSome = (lookupShape nmosShapes op).isSome) ?_ op
  apply forall_fin16 <;> apply forall_fin16 <;> rfl

/-- Settles O4: two bytes are enough for the field of any opcode, and the entry of an opcode is as the statement says. -/
theorem everyOpcodeDecodes : Obligations.EveryOpcodeDecodes := by
  intro unoff op b1 b2 rest
  obtain ⟨field, hsplit, hlen⟩ : ∃ field : List Byte,
      b1 :: b2 :: rest = field ++ (b1 :: b2 :: rest).drop (operandCount unoff op) ∧
        field.length = operandCount unoff op := by
    refine ⟨(b1 :: b2 :: rest).take (operandCount unoff op), (List.take_append_drop _ _).symm, ?_⟩
    have hle := operandCount_le unoff op
    simp only [List.length_take, List.length_cons]
    omega
  refine ⟨_, decode_cons_eq_ok_iff.mpr ⟨field, hsplit, hlen, rfl⟩, wellFormed_instrOf _ _ _ _,
    opcodeOf_instrOf _ _ _ _, ?_, ?_⟩
  · rw [mode_instrOf, operandCount]
  · rw [isSome_unofficial?_instrOf]

/-- Settles O1, by running the decoder on each word. -/
theorem tableWordsDecode : Obligations.TableWordsDecode :=
  ⟨rfl, rfl, rfl, rfl, rfl, rfl, rfl, rfl⟩

/-! ### Every instruction, and the cycle table -/

/-- Settles O9: every instruction completes, and running any part of one keeps the session. -/
theorem everyInstructionCompletes : Obligations.EveryInstructionCompletes := by
  intro i s
  obtain ⟨t, ht, hran, hu⟩ := exec_completes i s
  exact ⟨t, ht, hu, hran.session, hran.latch⟩

/-- Settles O15: the three tables, form by form (R395). -/
theorem cycleTable : Obligations.CycleTable := fun _ _ _ => ⟨rfl, rfl, rfl⟩

end Sys2Proof.Machine

/-! The tick (O7, O8, O10, O44): the countdown of a budget, that a tick after `reset()` answers, and what a tick does to
`trap` and to the latches. -/

namespace Sys2Proof.Machine

/-! ### The countdown (R100, R111) -/

/-- Settles O7, by induction on the number of ticks: each of them is a countdown, since more than 1 is left. -/
theorem budgetCountsDown : Obligations.BudgetCountsDown := by
  intro n
  induction n with
  | zero => intro s _ _ _; simp
  | succ n ih =>
    intro s hready hdma hrem
    have hleft : n < s.rem - 1 := by omega
    rw [ticks_succ (step_count hready hdma (by omega)),
      ih (endTick { s with rem := s.rem - 1 }) hready hdma hleft]
    have hbudget : s.rem - 1 - n = s.rem - (n + 1) := by omega
    have hcycles : s.cycles + 1 + n = s.cycles + (n + 1) := by omega
    have hperiph : s.periphCycles + s.params.periphRatio + n * s.params.periphRatio =
        s.periphCycles + (n + 1) * s.params.periphRatio := by ring
    simp only [endTick, hbudget, hcycles, hperiph]

/-! ### Every tick after `reset()` answers (R114) -/

/-- A boundary answers a next state, whatever it dispatches. -/
theorem dispatchBoundary_answers (s : State) : ∃ t, dispatchBoundary s = .next t := by
  unfold dispatchBoundary
  split_ifs
  case neg =>
    obtain ⟨t, ht, -⟩ := exec_completes (fetch s).1 (fetch s).2
    exact ⟨_, by rw [dispatchInstruction, ht, onNext_next]⟩
  all_goals exact ⟨_, rfl⟩

/-- A tick after `reset()` answers a next state: a DMA cycle, a countdown or a boundary. -/
theorem step_answers {s : State} (hready : s.ready = true) : ∃ t, step s = .next t := by
  by_cases hdma : s.dmaCount = 0
  · by_cases hrem : s.rem ≤ 1
    · obtain ⟨t, ht⟩ := dispatchBoundary_answers { s with rem := 0 }
      exact ⟨_, by rw [step_boundary hready hdma hrem, ht, onNext_next]⟩
    · exact ⟨_, step_count hready hdma (by omega)⟩
  · exact ⟨_, step_dma hready hdma⟩

/-- The instruction of a boundary keeps the session (R100-R107). -/
theorem exec_fetch_sameSession {s u : State}
    (hu : exec (fetch { s with rem := 0 }).1 (fetch { s with rem := 0 }).2 = .next u) : SameSession s u :=
  ((fetch_ran { s with rem := 0 }).trans (exec_ran hu).1).session

/-- A tick that answers leaves `reset()` done. -/
theorem step_ready {s t : State} (hs : step s = .next t) : t.ready = true := by
  obtain ⟨hready, ⟨-, rfl⟩ | ⟨-, -, rfl⟩ | ⟨-, -, -, rfl⟩ | ⟨-, -, -, -, -, rfl⟩ | ⟨-, u, hu, rfl⟩⟩ := step_cases hs
  case inr.inr.inr.inr =>
    obtain ⟨-, -, -, -, -, hkept, -⟩ := exec_fetch_sameSession hu
    exact hkept.trans hready
  all_goals simpa using hready

/-- Settles O8: a tick after `reset()` answers, and one before it is refused. -/
theorem stepFaultsNever : Obligations.StepFaultsNever := by
  refine fun s => ⟨fun hready => ?_, step_not_ready⟩
  obtain ⟨t, ht⟩ := step_answers hready
  exact ⟨t, ht, step_ready ht⟩

/-! ### `trap` and the latches (R101, R112, R347, R348) -/

/-- Settles O10, by the cases of the tick: only the dispatch of an instruction compares PC. -/
theorem trapObservesSelfLoop : Obligations.TrapObservesSelfLoop := by
  intro s t hs hdma
  obtain ⟨-, ⟨hactive, -⟩ | ⟨-, hcount, rfl⟩ | ⟨-, hrem, hnmi, rfl⟩ | ⟨-, hrem, -, hirq, hunmasked, rfl⟩ |
    ⟨hnext, u, -, rfl⟩⟩ := step_cases hs
  · exact absurd hdma hactive
  · exact ⟨fun ⟨_, _, hrem, _⟩ => absurd hrem (by omega), fun hrem => absurd hrem (by omega), fun _ => rfl⟩
  · exact ⟨fun ⟨_, _, _, hnone, _⟩ => absurd hnone (by simp [hnmi]), fun _ _ => rfl, fun hcount => absurd hrem (by omega)⟩
  · exact ⟨fun ⟨_, _, _, _, hmasked⟩ => absurd hmasked (by simp [hirq, hunmasked]), fun _ _ => rfl,
      fun hcount => absurd hrem (by omega)⟩
  · exact ⟨fun _ => rfl, fun _ hnot => absurd hnext hnot, fun hcount => absurd hcount (by have ⟨_, _, hrem, _⟩ := hnext; omega)⟩

/-- Settles O44, by the cases of the tick: only the two interrupt sequences write a latch. -/
theorem latchesClearOnlyWhenServiced : Obligations.LatchesClearOnlyWhenServiced := by
  intro s t hs boundary
  obtain ⟨-, ⟨hdma, rfl⟩ | ⟨-, hcount, rfl⟩ | ⟨hdma, hrem, hnmi, rfl⟩ | ⟨hdma, hrem, hnmi, hirq, hunmasked, rfl⟩ |
    ⟨hnext, u, hu, rfl⟩⟩ := step_cases hs
  · simp [boundary, hdma]
  · have hnot : ¬ s.rem ≤ 1 := by omega
    simp [boundary, hnot]
  · simp [boundary, hdma, hrem, hnmi]
  · simp [boundary, hdma, hrem, hnmi, hirq, hunmasked]
  · obtain ⟨hnmi, hirq, -⟩ := exec_fetch_sameSession hu
    obtain ⟨-, -, -, hnone, hmasked⟩ := hnext
    refine ⟨by simp [hnmi, hnone], ?_⟩
    rcases hmasked with hnoirq | hset
    · simp [hirq, hnoirq]
    · simp [hirq, hset]

end Sys2Proof.Machine

/-! The absolute indexed forms (O12). -/

namespace Sys2Proof.Machine

/-- An index carries into the high byte and wraps at 0xFFFF (R129, R130). -/
theorem toNat_indexed (base : Addr) (index : Byte) : (indexed base index).toNat = (base.toNat + index.toNat) % 65536 := by
  have hindex : index.toNat % 65536 = index.toNat := Nat.mod_eq_of_lt (by have := index.isLt; omega)
  rw [indexed, BitVec.toNat_add, BitVec.toNat_setWidth, hindex]

/-- A page is crossed exactly when the page numbers differ (R108). -/
theorem pageCrossed_iff (base ea : Addr) : pageCrossed base ea = true ↔ base.toNat / 256 ≠ ea.toNat / 256 := by
  rw [pageCrossed, bne_iff_ne, ne_eq, ← BitVec.toNat_inj, toNat_hiByte, toNat_hiByte]

/-- Settles O12: both indexed forms are `indexed` on their register. -/
theorem absoluteFormsCarry : Obligations.AbsoluteFormsCarry := by
  intro a s
  refine ⟨rfl, toNat_indexed a s.x, toNat_indexed a s.y, fun m hm => ?_⟩
  rcases List.mem_pair.mp hm with rfl | rfl
  · exact ⟨rfl, pageCrossed_iff a (indexed a s.x)⟩
  · exact ⟨rfl, pageCrossed_iff a (indexed a s.y)⟩

end Sys2Proof.Machine

/-! The instructions that only read their operand: loads (O16), ADC and SBC (O19, O20), logic (O22) and BIT (O23). -/

namespace Sys2Proof.Machine

/-! ### Flags after the common end of an instruction (R10, R106) -/

/-- P after `setNZ` and the end of an instruction. -/
theorem SetsNZ.of_status {v : Byte} {s t : State} (hp : t.p = forceUnused (setNZ v s.p)) : SetsNZ v s t := by
  unfold SetsNZ FlagsKept
  rw [hp]
  exact ⟨by simp, by simp, by simp +contextual, by simp⟩

/-- What a computation keeps, the end of the instruction keeps, and it sets U. -/
theorem StatusKept.flagsKept {written : List Flag} {p q : Byte} (h : StatusKept written p q) :
    FlagsKept written p (forceUnused q) :=
  ⟨fun f hw hu => by simpa [hu] using h f hw hu, by simp⟩

/-! ### The loads (R140-R142) -/

/-- Settles O16: one operand read, then one register and the flags of its byte. -/
theorem loadsWriteRegister : Obligations.LoadsWriteRegister := by
  intro o s r cost
  refine ⟨⟨_, rfl, rfl, ?_⟩, ⟨_, rfl, rfl, ?_⟩, ⟨_, rfl, rfl, ?_⟩⟩
  all_goals exact ⟨by simp, by simp, by simp, by simp, .of_status (by simp [r]), rfl, loadOperand_nothingStored o s⟩

/-! ### The accumulator operations (R160-R166) -/

/-- An accumulator operation, whole: A and P are the computation's on the operand, the rest is as it was. -/
theorem accumulate_spec (f : Byte → Byte → Byte → Computed) (o : ReadOperand) (s : State) :
    ∃ t, accumulate f o s = .next t ∧ t.a = (f s.a (loadOperand o s).value s.p).result ∧
      t.p = forceUnused (f s.a (loadOperand o s).value s.p).status ∧ t.x = s.x ∧ t.y = s.y ∧ t.sp = s.sp ∧ t.pc = s.pc ∧
      t.rem = (readCycles o + if (loadOperand o s).crossed then 1 else 0) ∧ NothingStored s t :=
  ⟨_, rfl, by simp, by simp, by simp, by simp, by simp, by simp, rfl, loadOperand_nothingStored o s⟩

/-- AND, ORA and EOR: an accumulator operation whose flags are its result's N and Z. -/
theorem accumulate_setNZ_spec (g : Byte → Byte → Byte) (o : ReadOperand) (s : State) :
    ∃ t, accumulate (fun a m p => ⟨g a m, setNZ (g a m) p⟩) o s = .next t ∧ t.a = g s.a (loadOperand o s).value ∧
      SetsNZ (g s.a (loadOperand o s).value) s t ∧ t.x = s.x ∧ t.y = s.y ∧ t.sp = s.sp ∧ t.pc = s.pc ∧
      t.rem = (readCycles o + if (loadOperand o s).crossed then 1 else 0) ∧ NothingStored s t := by
  obtain ⟨t, ht, ha, hp, hframe⟩ := accumulate_spec (fun a m p => ⟨g a m, setNZ (g a m) p⟩) o s
  exact ⟨t, ht, ha, .of_status hp, hframe⟩

/-- Settles O22: the three are one operation with three functions of two bytes. -/
theorem logicOperations : Obligations.LogicOperations := by
  intro o s r c hc
  simp only [List.mem_cons, List.not_mem_nil, or_false] at hc
  obtain rfl | rfl | rfl := hc
  · exact accumulate_setNZ_spec (· &&& ·) o s
  · exact accumulate_setNZ_spec (· ||| ·) o s
  · exact accumulate_setNZ_spec (· ^^^ ·) o s

/-! ### The add routine (R160) -/

/-- A byte masked to bit 7 is 0 exactly when the bit is. -/
theorem and_0x80_ne_zero (v : Byte) : (v &&& 0x80 != 0) = bit7 v := by
  revert v; decide

/-- The sign test of the add routine: both operands have one sign and the result has the other. -/
theorem signs_overflow (a m r : Byte) :
    (((a ^^^ r) &&& (m ^^^ r) &&& 0x80) != 0) = (bit7 a == bit7 m && bit7 r != bit7 a) := by
  rw [and_0x80_ne_zero]
  simp only [bit7, BitVec.getLsbD_and, BitVec.getLsbD_xor]
  cases a.getLsbD 7 <;> cases m.getLsbD 7 <;> cases r.getLsbD 7 <;> rfl

/-- The result is the exact sum, reduced. -/
theorem toNat_addWithCarry_result (a m p : Byte) :
    (addWithCarry a m p).result.toNat = (a.toNat + m.toNat + (getFlag .c p).toNat) % 256 :=
  BitVec.toNat_ofNat _ 8

/-- The flags the add routine writes. -/
theorem addWithCarry_flags (a m p : Byte) :
    getFlag .c (addWithCarry a m p).status = decide (255 < a.toNat + m.toNat + (getFlag .c p).toNat) ∧
    getFlag .v (addWithCarry a m p).status = (bit7 a == bit7 m && bit7 (addWithCarry a m p).result != bit7 a) ∧
    getFlag .n (addWithCarry a m p).status = bit7 (addWithCarry a m p).result ∧
    getFlag .z (addWithCarry a m p).status = ((addWithCarry a m p).result == 0) :=
  ⟨by simp [addWithCarry], by simpa [addWithCarry] using signs_overflow a m (addWithCarry a m p).result,
    by simp [addWithCarry], by simp [addWithCarry]⟩

/-- The add routine run on the operand passed through `g`: as it is for ADC, complemented for SBC (R162, R163). -/
theorem accumulate_addWithCarry_spec (g : Byte → Byte) (o : ReadOperand) (s : State) :
    let m := g (loadOperand o s).value
    ∃ t, accumulate (fun a m p => addWithCarry a (g m) p) o s = .next t ∧ t.a = (addWithCarry s.a m s.p).result ∧
      getFlag .c t.p = decide (255 < s.a.toNat + m.toNat + (getFlag .c s.p).toNat) ∧
      getFlag .v t.p = (bit7 s.a == bit7 m && bit7 t.a != bit7 s.a) ∧
      getFlag .n t.p = bit7 t.a ∧ getFlag .z t.p = (t.a == 0) ∧ FlagsKept [.n, .v, .z, .c] s.p t.p ∧
      t.x = s.x ∧ t.y = s.y ∧ t.sp = s.sp ∧ t.pc = s.pc ∧
      t.rem = (readCycles o + if (loadOperand o s).crossed then 1 else 0) ∧ NothingStored s t := by
  intro m
  obtain ⟨t, ht, ha, hp, hframe⟩ := accumulate_spec (fun a m p => addWithCarry a (g m) p) o s
  obtain ⟨hc, hv, hn, hz⟩ := addWithCarry_flags s.a m s.p
  have hkept := (statusKept_addWithCarry s.a m s.p).flagsKept
  have hflag (f : Flag) (hu : f ≠ .u) : getFlag f t.p = getFlag f (addWithCarry s.a m s.p).status := by
    rw [hp, getFlag_forceUnused, if_neg hu]
  refine ⟨t, ht, ha, ?_, ?_, ?_, ?_, hp ▸ hkept, hframe⟩
  · rw [hflag .c (by decide), hc]
  · rw [hflag .v (by decide), hv, ha]
  · rw [hflag .n (by decide), hn, ha]
  · rw [hflag .z (by decide), hz, ha]

/-- Settles O19: ADC is the add routine on the operand. -/
theorem adcAddsWithCarry : Obligations.AdcAddsWithCarry := by
  intro o s r sum
  obtain ⟨t, ht, ha, hflags⟩ := accumulate_addWithCarry_spec id o s
  exact ⟨t, ht, ha ▸ toNat_addWithCarry_result s.a r.value s.p, hflags⟩

/-! ### Subtraction as addition of the complement (R163) -/

theorem toNat_xor_0xFF (m : Byte) : (m ^^^ 0xFF).toNat = 255 - m.toNat := by
  have hnot : m ^^^ 0xFF = ~~~m := BitVec.xor_allOnes
  rw [hnot, BitVec.toNat_not]

theorem bit7_xor_0xFF (m : Byte) : bit7 (m ^^^ 0xFF) = !bit7 m := by
  simp [bit7]

/-- Adding the complement subtracts, with the clear carry as a borrow. -/
theorem addWithCarry_complement_result (a m p : Byte) :
    (addWithCarry a (m ^^^ 0xFF) p).result = a - m - BitVec.ofNat 8 (if getFlag .c p then 0 else 1) := by
  apply BitVec.eq_of_toNat_eq
  rw [toNat_addWithCarry_result, toNat_xor_0xFF, BitVec.toNat_sub, BitVec.toNat_sub, BitVec.toNat_ofNat]
  have := m.isLt
  cases getFlag .c p
  · simp only [Bool.toNat_false, Bool.false_eq_true, if_false]; omega
  · simp only [Bool.toNat_true, if_true]; omega

/-- The carry of that addition is the absence of a borrow. -/
theorem complement_carry_iff (a m : Byte) (c : Bool) :
    255 < a.toNat + (m ^^^ 0xFF).toNat + c.toNat ↔ m.toNat + (if c then 0 else 1) ≤ a.toNat := by
  rw [toNat_xor_0xFF]
  have := m.isLt
  cases c
  · simp only [Bool.toNat_false, Bool.false_eq_true, if_false]; omega
  · simp only [Bool.toNat_true, if_true]; omega

/-- Settles O20: SBC is the add routine on the complement of the operand. -/
theorem sbcSubtractsWithBorrow : Obligations.SbcSubtractsWithBorrow := by
  intro o s r borrow
  obtain ⟨t, ht, ha, hc, hv, hrest⟩ := accumulate_addWithCarry_spec (· ^^^ 0xFF) o s
  refine ⟨t, ht, ha.trans (addWithCarry_complement_result s.a r.value s.p), ?_, ?_, hrest⟩
  · rw [hc]
    exact decide_eq_decide.mpr (complement_carry_iff s.a r.value _)
  · rw [hv, bit7_xor_0xFF]
    cases bit7 s.a <;> simp [r]

/-! ### BIT (R167) -/

/-- The flags BIT writes. -/
theorem bitTestStatus_flags (a m p : Byte) :
    getFlag .z (bitTestStatus a m p) = (a &&& m == 0) ∧ getFlag .n (bitTestStatus a m p) = bit7 m ∧
    getFlag .v (bitTestStatus a m p) = bit6 m := by
  simp [bitTestStatus]

/-- Settles O23: one operand read, then flags only. -/
theorem bitTestsMemory : Obligations.BitTestsMemory := by
  refine ⟨fun _ _ => ⟨rfl, rfl⟩, ?_⟩
  intro m s r
  obtain ⟨hz, hn, hv⟩ := bitTestStatus_flags s.a r.value s.p
  have hkept := (statusKept_bitTestStatus s.a r.value s.p).flagsKept
  exact ⟨_, rfl, by simpa using hz, by simpa using hn, by simpa using hv, by simpa using hkept, by simp [SameRegisters],
    by simp, rfl, loadMem_nothingStored m s⟩

end Sys2Proof.Machine

/-! RTI (O34). -/

namespace Sys2Proof.Machine

/-- Settles O34: RTI is the return from an interrupt, whose three pulls are known on plain bytes (R351). -/
theorem rtiRestores : Obligations.RtiRestores := by
  refine ⟨rfl, fun s => ⟨_, rfl, fun i j k hi hj hk => ?_, ?_, returnFromInterrupt_pc s, by simp, returnFromInterrupt_sp s,
    returnFromInterrupt_a s, returnFromInterrupt_x s, returnFromInterrupt_y s, rfl, returnFromInterrupt_nothingStored s⟩⟩
  · rw [returnFromInterrupt_of_backing hi hj hk]
    exact ⟨rfl, by simp +contextual⟩
  · simp +contextual

end Sys2Proof.Machine

/-! The unofficial opcodes (O39). -/

namespace Sys2Proof.Machine

/-- An unofficial instruction is the inert operation of its opcode byte and operand (R250). -/
theorem exec_of_unofficial {i : Instr} {op : Byte} {o : Operand} (h : i.unofficial? = some (op, o)) (s : State) :
    exec i s = inert op o s := by
  cases i
  all_goals cases h
  all_goals rfl

/-- The page-cross cycle of an unofficial entry is taken when its shape or `PENALTY_ON_WRITES` says so (R108). -/
theorem unofficialPenalty_eq (shape : Shape) (crossed : Bool) (s : State) :
    unofficialPenalty shape crossed s = if crossed && (shape.pagePenalty || s.params.penaltyOnWrites) then 1 else 0 := by
  unfold unofficialPenalty readPenalty writePenalty
  cases shape.pagePenalty
  · simp
  · simp

/-- Only the modes with a pointer read anything to resolve (R131-R133). -/
theorem resolveOnly_state_of_no_pointer {o : Operand} (h : o.mode ∉ [Mode.izx, .izy, .ind]) (s : State) :
    (resolveOnly o s).2 = s := by
  cases o with
  | mem m =>
    cases m
    case izx z | izy z => exact absurd (by simp [Operand.mode, MemMode.mode]) h
    all_goals rfl
  | ind a => exact absurd (by simp [Operand.mode]) h
  | imp | acc | imm _ | rel _ => rfl

/-- The inert operation, whole (R250). -/
theorem inert_spec (op : Byte) (o : Operand) (s : State) :
    let shape := shapeOf s.params.unoffShape op
    ∃ t, inert op o s = .next t ∧ SameRegisters s t ∧ t.pc = s.pc ∧ FlagsKept [] s.p t.p ∧ NothingStored s t ∧
      t.rem = (shape.cycles + if (resolveOnly o s).1 && (shape.pagePenalty || s.params.penaltyOnWrites) then 1 else 0) ∧
      (o.mode ∉ [Mode.izx, .izy, .ind] → t.events = s.events ∧ t.draws = s.draws) := by
  intro shape
  refine ⟨_, rfl, by simp [SameRegisters], by simp, by simpa using flagsKept_forceUnused s.p, resolveOnly_nothingStored o s,
    congrArg (shape.cycles + ·) (unofficialPenalty_eq shape _ s), fun hmode => ?_⟩
  simp only [resolveOnly_state_of_no_pointer hmode, and_self]

/-- Settles O39: every constructor listed is an unofficial instruction. -/
theorem unofficialOpcodesInert : Obligations.UnofficialOpcodesInert := by
  intro op o s shape i hi
  have hunofficial : i.unofficial? = some (op, o) := by
    revert i
    simp [Instr.unofficial?]
  rw [exec_of_unofficial hunofficial]
  exact inert_spec op o s

end Sys2Proof.Machine

/-! The zero-page forms (O11) and the forms with a pointer in page 0 (O13). -/

namespace Sys2Proof.Machine

@[simp] theorem hiByte_zeroPage (z : Byte) : hiByte (zeroPage z) = 0 := hiByte_word 0 z

@[simp] theorem loByte_zeroPage (z : Byte) : loByte (zeroPage z) = z := loByte_word 0 z

/-- Settles O11: each of the three forms is an address of page 0, read off without an access. -/
theorem zeroPageFormsWrap : Obligations.ZeroPageFormsWrap := by
  intro z s
  refine ⟨⟨hiByte_zeroPage z, loByte_zeroPage z⟩, ⟨hiByte_zeroPage _, loByte_zeroPage _⟩,
    ⟨hiByte_zeroPage _, loByte_zeroPage _⟩, fun m hm => ?_⟩
  simp only [List.mem_cons, List.not_mem_nil, or_false] at hm
  obtain rfl | rfl | rfl := hm <;> exact ⟨rfl, rfl⟩

/-- Where both bytes are of the store, a 16-bit read in page 0 leaves the state as it was (R62). -/
theorem read16zp_of_backing {z : Byte} {s : State} {i j : Nat} (hi : backing s (zeroPage z) = some i)
    (hj : backing s (zeroPage (z + 1)) = some j) : read16zp z s = (word (s.mem.read j) (s.mem.read i), s) :=
  readPair_of_backing hi hj

/-- (zp,X) on plain pointer bytes (R132). -/
theorem resolve_izx_of_backing {z : Byte} {s : State} {i j : Nat} (hi : backing s (zeroPage (z + s.x)) = some i)
    (hj : backing s (zeroPage (z + s.x + 1)) = some j) :
    resolve (.izx z) s = ⟨word (s.mem.read j) (s.mem.read i), false, s⟩ := by
  simp only [resolve, read16zp_of_backing hi hj]

/-- (zp),Y on plain pointer bytes (R133). -/
theorem resolve_izy_of_backing {z : Byte} {s : State} {i j : Nat} (hi : backing s (zeroPage z) = some i)
    (hj : backing s (zeroPage (z + 1)) = some j) :
    let base := word (s.mem.read j) (s.mem.read i)
    resolve (.izy z) s = ⟨indexed base s.y, pageCrossed base (indexed base s.y), s⟩ := by
  simp only [resolve, read16zp_of_backing hi hj]

/-- A page is crossed from `h:l` exactly when the high byte is no longer `h` (R108). -/
theorem pageCrossed_word_iff (h l : Byte) (ea : Addr) : pageCrossed (word h l) ea = true ↔ h ≠ hiByte ea := by
  rw [pageCrossed, hiByte_word, bne_iff_ne]

/-- Settles O13: on a plain page 0 both forms are known whole; (zp,X) has no base to cross from. -/
theorem pointerFormsWrap : Obligations.PointerFormsWrap := by
  intro z s
  refine ⟨fun i j => resolve_izx_of_backing, fun i j hi hj => ?_, rfl⟩
  rw [resolve_izy_of_backing hi hj]
  exact ⟨rfl, toNat_indexed _ s.y, pageCrossed_word_iff _ _ _⟩

end Sys2Proof.Machine

/-! The shifts and rotates of A (O25). -/

namespace Sys2Proof.Machine

/-! ### The bytes they compute (R180-R183) -/

/-- A shift to the left doubles, and bit 7 falls out. -/
theorem toNat_shiftLeft_one (v : Byte) : (v <<< 1).toNat = 2 * v.toNat % 256 := by
  rw [BitVec.toNat_shiftLeft, Nat.shiftLeft_eq, Nat.mul_comm]

/-- A shift to the right halves, and bit 0 falls out. -/
theorem toNat_shiftRight_one (v : Byte) : (v >>> 1).toNat = v.toNat / 2 := by
  rw [BitVec.toNat_ushiftRight, Nat.shiftRight_eq_div_pow]

/-- Where a bit is clear, taking the carry in there with `or` adds it. -/
theorem toNat_or_carry {v : Byte} {k : Nat} (hclear : v.getLsbD k = false) (carry : Bool) :
    (v ||| if carry then BitVec.twoPow 8 k else 0).toNat = (v.toNat + 2 ^ k * carry.toNat) % 256 := by
  cases carry with
  | false => simp [Nat.mod_eq_of_lt v.isLt]
  | true =>
    have hdisjoint : v &&& BitVec.twoPow 8 k = 0 := by rw [BitVec.and_twoPow, hclear]; rfl
    rw [if_pos rfl, ← BitVec.add_eq_or_of_and_eq_zero _ _ hdisjoint]
    simp

/-- The old carry enters the empty bit 0. -/
theorem toNat_rotateLeft_result (v p : Byte) :
    (rotateLeft v p).result.toNat = (2 * v.toNat + (getFlag .c p).toNat) % 256 := by
  have h := toNat_or_carry (v := v <<< 1) (k := 0) (by simp) (getFlag .c p)
  rw [toNat_shiftLeft_one, pow_zero, one_mul, Nat.mod_add_mod] at h
  exact h

/-- The old carry enters the empty bit 7. -/
theorem toNat_rotateRight_result (v p : Byte) :
    (rotateRight v p).result.toNat = v.toNat / 2 + 128 * (getFlag .c p).toNat := by
  have h := toNat_or_carry (v := v >>> 1) (k := 7) (by simp) (getFlag .c p)
  have hfits : v.toNat / 2 + 2 ^ 7 * (getFlag .c p).toNat < 256 := by
    have := v.isLt
    have := Bool.toNat_le (getFlag .c p)
    omega
  rw [toNat_shiftRight_one, Nat.mod_eq_of_lt hfits] at h
  exact h

/-! ### The accumulator form (R123) -/

/-- The accumulator form, whole, of a computation whose byte is `n` and which writes C and then the byte's N and Z. -/
theorem modify_acc_spec {f : Byte → Byte → Computed} {s : State} {n : Nat} {out : Bool}
    (hresult : (f s.a s.p).result.toNat = n)
    (hstatus : (f s.a s.p).status = setNZ (f s.a s.p).result (setFlag .c out s.p)) :
    ∃ t, modify f .acc s = .next t ∧ t.a.toNat = n ∧ getFlag .c t.p = out ∧ getFlag .n t.p = bit7 t.a ∧
      getFlag .z t.p = (t.a == 0) ∧ FlagsKept [.n, .z, .c] s.p t.p ∧ t.x = s.x ∧ t.y = s.y ∧ t.sp = s.sp ∧
      t.pc = s.pc ∧ t.rem = 2 ∧ NothingStored s t := by
  have hkept := (statusKept_setNZ_setFlag_c (f s.a s.p).result out s.p).flagsKept
  refine ⟨_, rfl, hresult, ?_, ?_, ?_, hstatus ▸ hkept, rfl, rfl, rfl, rfl, rfl, NothingStored.refl s⟩
  all_goals simp [hstatus]

/-- Settles O25: the four are one operation with four computations of a byte. -/
theorem shiftsOfAccumulator : Obligations.ShiftsOfAccumulator := by
  intro s c k hk
  simp only [List.mem_cons, List.not_mem_nil, or_false] at hk
  obtain rfl | rfl | rfl | rfl := hk
  · exact modify_acc_spec (f := shiftLeft) (toNat_shiftLeft_one s.a) rfl
  · exact modify_acc_spec (f := shiftRight) (toNat_shiftRight_one s.a) rfl
  · exact modify_acc_spec (toNat_rotateLeft_result s.a s.p) rfl
  · exact modify_acc_spec (toNat_rotateRight_result s.a s.p) rfl

end Sys2Proof.Machine

/-! The transfers between registers (O18). -/

namespace Sys2Proof.Machine

/-- Settles O18: each transfer rewrites fields of `s` and ends the instruction, so that the registers are read off. The five
with a general register as destination leave P with the copied byte's N and Z, and TXS leaves it as it was (R151). -/
theorem transfersCopyRegister : Obligations.TransfersCopyRegister := by
  refine ⟨by decide, fun s => ⟨⟨_, rfl, ?tax⟩, ⟨_, rfl, ?tay⟩, ⟨_, rfl, ?txa⟩, ⟨_, rfl, ?tya⟩, ⟨_, rfl, ?tsx⟩,
    ⟨_, rfl, ?txs⟩⟩⟩
  case tax | tay | txa | tya | tsx =>
    exact ⟨rfl, rfl, rfl, rfl, rfl, .of_status rfl, rfl, NothingStored.refl s⟩
  case txs => exact ⟨rfl, rfl, rfl, rfl, rfl, flagsKept_forceUnused s.p, rfl, NothingStored.refl s⟩

end Sys2Proof.Machine

/-! The compares (O24). -/

namespace Sys2Proof.Machine

/-- The flags a compare writes: C and Z order the two bytes as naturals, N is the sign of their difference (R168). -/
theorem compareStatus_flags (reg m p : Byte) :
    getFlag .c (compareStatus reg m p) = decide (m.toNat ≤ reg.toNat) ∧
    getFlag .z (compareStatus reg m p) = decide (reg = m) ∧
    getFlag .n (compareStatus reg m p) = bit7 (reg - m) :=
  ⟨by simp [compareStatus], by simp [compareStatus, beq_eq_decide], by simp [compareStatus]⟩

/-- A compare, whole: one operand read, then P is the comparison's and the rest is as it was (R168). -/
theorem compareWith_spec (reg : Byte) (o : ReadOperand) (s : State) :
    ∃ t, compareWith reg o s = .next t ∧ t.p = forceUnused (compareStatus reg (loadOperand o s).value s.p) ∧
      SameRegisters s t ∧ t.pc = s.pc ∧
      t.rem = (readCycles o + if (loadOperand o s).crossed then 1 else 0) ∧ NothingStored s t :=
  ⟨_, rfl, by simp, by simp [SameRegisters], by simp, rfl, loadOperand_nothingStored o s⟩

/-- A compare, flag by flag: V is among the flags kept (R168). -/
theorem compareWith_flags_spec (reg : Byte) (o : ReadOperand) (s : State) :
    let m := (loadOperand o s).value
    ∃ t, compareWith reg o s = .next t ∧ getFlag .c t.p = decide (m.toNat ≤ reg.toNat) ∧
      getFlag .z t.p = decide (reg = m) ∧ getFlag .n t.p = bit7 (reg - m) ∧
      FlagsKept [.n, .z, .c] s.p t.p ∧ SameRegisters s t ∧ t.pc = s.pc ∧
      t.rem = (readCycles o + if (loadOperand o s).crossed then 1 else 0) ∧ NothingStored s t := by
  intro m
  obtain ⟨t, ht, hp, hframe⟩ := compareWith_spec reg o s
  obtain ⟨hc, hz, hn⟩ := compareStatus_flags reg m s.p
  have hkept := (statusKept_compareStatus reg m s.p).flagsKept
  have hflag (f : Flag) (hu : f ≠ .u) : getFlag f t.p = getFlag f (compareStatus reg m s.p) := by
    rw [hp, getFlag_forceUnused, if_neg hu]
  exact ⟨t, ht, (hflag .c (by decide)).trans hc, (hflag .z (by decide)).trans hz, (hflag .n (by decide)).trans hn,
    hp ▸ hkept, hframe⟩

/-- Settles O24: the three are one comparison on three registers (R169-R171). -/
theorem comparesAreUnsigned : Obligations.ComparesAreUnsigned := by
  intro o s r c hc
  simp only [List.mem_cons, List.not_mem_nil, or_false] at hc
  obtain rfl | rfl | rfl := hc
  · exact compareWith_flags_spec s.a o s
  · exact compareWith_flags_spec s.x o s
  · exact compareWith_flags_spec s.y o s

end Sys2Proof.Machine

/-! The shifts, rotates, INC and DEC of memory (O26, O27), and the counts of X and Y (O28). -/

namespace Sys2Proof.Machine

/-! ### Read-modify-write of memory (R190) -/

/-- A read-modify-write, whole: the computed byte is written where the operand was read, P is the computation's, and the rest
is as it was. -/
theorem modifyMem_spec (f : Byte → Byte → Computed) (m : MemMode) (s : State) :
    let r := loadMem m s
    let c := f r.value s.p
    ∃ t, modifyMem f m s = .next t ∧ ByteWritten (resolve m s).ea c.result r.state t ∧ SameSession s t ∧
      t.p = forceUnused c.status ∧ SameRegisters s t ∧ t.pc = s.pc ∧
      t.rem = (rmwCycles (.mem m) + if r.crossed && s.params.penaltyOnWrites then 1 else 0) := by
  intro r c
  have hp : r.state.p = s.p := loadMem_p m s
  have hmodify : modifyMem f m s = finish (rmwCycles (.mem m) + writePenalty r.crossed s)
      { busWrite (resolve m s).ea (f r.value r.state.p).result r.state with p := (f r.value r.state.p).status } := rfl
  rw [hp] at hmodify
  exact ⟨_, hmodify, busWrite_byteWritten _ c.result r.state, by simp [SameSession, r], rfl, by simp [SameRegisters, r],
    by simp [r], rfl⟩

/-- The memory form of a computation whose byte is `n` and which writes C and then the byte's N and Z. -/
theorem modify_mem_spec {f : Byte → Byte → Computed} {m : MemMode} {s : State} {n : Nat} {out : Bool}
    (hresult : (f (loadMem m s).value s.p).result.toNat = n)
    (hstatus : (f (loadMem m s).value s.p).status =
      setNZ (f (loadMem m s).value s.p).result (setFlag .c out s.p)) :
    ∃ t res, modify f (.mem m) s = .next t ∧ res.toNat = n ∧
      ByteWritten (resolve m s).ea res (loadMem m s).state t ∧ SameSession s t ∧
      getFlag .c t.p = out ∧ getFlag .n t.p = bit7 res ∧ getFlag .z t.p = (res == 0) ∧
      FlagsKept [.n, .z, .c] s.p t.p ∧ SameRegisters s t ∧ t.pc = s.pc ∧
      t.rem = (rmwCycles (.mem m) + if (loadMem m s).crossed && s.params.penaltyOnWrites then 1 else 0) := by
  obtain ⟨t, ht, hwritten, hsession, hp, hframe⟩ := modifyMem_spec f m s
  rw [hstatus] at hp
  have hkept := (statusKept_setNZ_setFlag_c (f (loadMem m s).value s.p).result out s.p).flagsKept
  exact ⟨t, _, ht, hresult, hwritten, hsession, by simp [hp], by simp [hp], by simp [hp], hp ▸ hkept, hframe⟩

/-- Settles O26: the four are one operation with four computations of a byte. -/
theorem shiftsOfMemory : Obligations.ShiftsOfMemory := by
  intro m s r v c
  refine ⟨loadMem_nothingStored m s, fun k hk => ?_⟩
  simp only [List.mem_cons, List.not_mem_nil, or_false] at hk
  obtain rfl | rfl | rfl | rfl := hk
  · exact modify_mem_spec (f := shiftLeft) (toNat_shiftLeft_one v) rfl
  · exact modify_mem_spec (f := shiftRight) (toNat_shiftRight_one v) rfl
  · exact modify_mem_spec (toNat_rotateLeft_result v s.p) rfl
  · exact modify_mem_spec (toNat_rotateRight_result v s.p) rfl

/-! ### Counting up and down (R184-R189) -/

/-- The memory form of a computation whose only flags are its byte's N and Z: C is among the flags kept. -/
theorem modifyMem_setNZ_spec {f : Byte → Byte → Computed} (hstatus : ∀ v p, (f v p).status = setNZ (f v p).result p)
    (m : MemMode) (s : State) :
    let r := loadMem m s
    let res := (f r.value s.p).result
    ∃ t, modifyMem f m s = .next t ∧ ByteWritten (resolve m s).ea res r.state t ∧ SameSession s t ∧ SetsNZ res s t ∧
      SameRegisters s t ∧ t.pc = s.pc ∧
      t.rem = (rmwCycles (.mem m) + if r.crossed && s.params.penaltyOnWrites then 1 else 0) := by
  intro r res
  obtain ⟨t, ht, hwritten, hsession, hp, hframe⟩ := modifyMem_spec f m s
  exact ⟨t, ht, hwritten, hsession, .of_status (hstatus r.value s.p ▸ hp), hframe⟩

/-- Settles O27: the two are one operation with two computations of a byte. -/
theorem incDecOfMemory : Obligations.IncDecOfMemory := by
  intro m s r
  refine ⟨loadMem_nothingStored m s, fun k hk => ?_⟩
  simp only [List.mem_cons, List.not_mem_nil, or_false] at hk
  obtain rfl | rfl := hk
  · exact modifyMem_setNZ_spec (f := increment) (fun _ _ => rfl) m s
  · exact modifyMem_setNZ_spec (f := decrement) (fun _ _ => rfl) m s

/-- Settles O28: each rewrites one index register and P in `s`, and ends the instruction. -/
theorem incDecOfIndex : Obligations.IncDecOfIndex := by
  refine ⟨by decide, fun s => ⟨fun k hk => ?_, fun k hk => ?_⟩⟩
  all_goals
    simp only [List.mem_cons, List.not_mem_nil, or_false] at hk
    obtain rfl | rfl := hk
    all_goals exact ⟨_, rfl, rfl, .of_status rfl, rfl, rfl, rfl, rfl, rfl, NothingStored.refl s⟩

end Sys2Proof.Machine

/-! The branches (O29), JMP (O30), JSR and RTS (O31, O32, O33), and BRK (O35). -/

namespace Sys2Proof.Machine

/-! ### Branches (R200-R208) -/

/-- A conditional branch writes PC when it is taken, and nothing else (R200). -/
theorem branchIf_branchesIf (cond : Bool) (off : Byte) (s : State) : BranchesIf cond off s (branchIf cond off s) :=
  ⟨_, branchIf_eq cond off s, rfl, rfl, ⟨rfl, rfl, rfl, rfl⟩, flagsKept_forceUnused s.p, NothingStored.refl s⟩

/-- Settles O29: the eight are one operation on four flags and their complements. -/
theorem branchesFollowTheirFlag : Obligations.BranchesFollowTheirFlag := by
  intro off s
  have hbranch (cond : Bool) := branchIf_branchesIf cond off s
  exact ⟨rfl, hbranch _, hbranch _, hbranch _, hbranch _, hbranch _, hbranch _, hbranch _, hbranch _⟩

/-! ### Jumps and subroutines (R209-R211) -/

/-- Settles O30: the target is the operand word, or a pair of reads inside the pointer's page (R131). -/
theorem jumpTargets : Obligations.JumpTargets := by
  refine fun a s => ⟨rfl, rfl, ⟨_, rfl, ?abs⟩, ⟨_, rfl, ?ind⟩⟩
  case abs => exact ⟨rfl, rfl, ⟨rfl, rfl, rfl, rfl⟩, flagsKept_forceUnused s.p, NothingStored.refl s⟩
  case ind =>
    have hplain {i j : Nat} (hi : backing s a = some i) (hj : backing s (word (hiByte a) (loByte a + 1)) = some j) :
        (jumpTarget (.ind a) s).1 = word (s.mem.read j) (s.mem.read i) :=
      congrArg Prod.fst (readPair_of_backing hi hj)
    exact ⟨rfl, fun _ _ => hplain, rfl, by simp [SameRegisters], by simpa using flagsKept_forceUnused s.p,
      jumpTarget_nothingStored (.ind a) s⟩

/-- Settles O31: a push of the word PC - 1, then a jump. -/
theorem jsrPushesReturn : Obligations.JsrPushesReturn := by
  refine fun a s => ⟨rfl, _, rfl, rfl, pushWord_sp _ s, pushWord_bytesWritten (s.pc - 1) s, ?_⟩
  exact ⟨by simp, by simp, by simp, by simpa using flagsKept_forceUnused s.p, rfl, by simp [SameSession]⟩

/-- Settles O32: a pull of a word, whose value is known on plain bytes. -/
theorem rtsPullsReturn : Obligations.RtsPullsReturn := by
  refine ⟨rfl, fun s => ⟨_, rfl, rfl, fun i j hi hj => ?plain, pullWord_sp s, ?frame⟩⟩
  case plain => exact congrArg (·.1 + 1) (pullWord_of_backing hi hj)
  case frame =>
    exact ⟨by simp, by simp, by simp, by simpa using flagsKept_forceUnused s.p, rfl, pullWord_nothingStored s⟩

/-- A word pushed onto two distinct plain bytes of the stack is the word pulled next, in any state with that store, that SP
and that map: PC, P and `rem` may have been written since. -/
theorem pullWord_fst_of_pushWord {s t : State} {v : Addr} {i j : Nat} (hi : backing s (stackAddr s.sp) = some i)
    (hj : backing s (stackAddr (s.sp - 1)) = some j) (hij : i ≠ j) (hparams : t.params = s.params)
    (hsp : t.sp = s.sp - 2) (hmem : t.mem = (pushWord v s).mem) : (pullWord t).1 = v := by
  have hlow : t.sp + 1 = s.sp - 1 := by rw [hsp]; bv_omega
  have hhigh : t.sp + 2 = s.sp := by rw [hsp]; bv_omega
  have hj' : backing t (stackAddr (t.sp + 1)) = some j := by rw [hlow, backing_congr hparams, hj]
  have hi' : backing t (stackAddr (t.sp + 2)) = some i := by rw [hhigh, backing_congr hparams, hi]
  rw [pullWord_of_backing hj' hi', hmem, pushWord_of_backing hi hj]
  simp [hij]

/-- What RTS meets after JSR: the return address pushed, SP below it, and the same map (R210). -/
theorem exec_jsr_stack {a : Addr} {s t : State} (h : exec (.jsr a) s = .next t) :
    t.params = s.params ∧ t.sp = s.sp - 2 ∧ t.mem = (pushWord (s.pc - 1) s).mem := by
  obtain rfl := Host.Outcome.next.inj h
  exact ⟨pushWord_params _ s, pushWord_sp _ s, rfl⟩

/-- Settles O33: RTS pulls the word JSR pushed, PC - 1, and adds the 1 back. -/
theorem rtsUndoesJsr : Obligations.RtsUndoesJsr := by
  intro a s t u i j hi hj hij hjsr hrts
  obtain ⟨hparams, hsp, hmem⟩ := exec_jsr_stack hjsr
  obtain ⟨u', hu', hpc, -, hsp', -⟩ := rtsPullsReturn.2 t
  obtain rfl := Host.Outcome.next.inj (hrts.symm.trans hu')
  have hret : (pullWord t).1 = s.pc - 1 := pullWord_fst_of_pushWord hi hj hij hparams hsp hmem
  exact ⟨by rw [hpc, hret, BitVec.sub_add_cancel], by rw [hsp', hsp, BitVec.sub_add_cancel]⟩

/-! ### BRK (R213) -/

/-- The end of an instruction writes only U and the budget, of which `EntersInterrupt` does not speak. -/
theorem EntersInterrupt.finished {ret : Addr} {b : Bool} {vec : Addr} {s t : State} (h : EntersInterrupt ret b vec s t)
    (budget : Nat) : EntersInterrupt ret b vec s { t with p := forceUnused t.p, rem := budget } :=
  h.congr rfl rfl rfl rfl rfl (by simp +contextual) rfl ⟨rfl, rfl, rfl, rfl⟩ rfl rfl

/-- Settles O35: BRK is the interrupt sequence with B set. -/
theorem brkEntersInterrupt : Obligations.BrkEntersInterrupt := by
  have henters (s : State) := interruptSequence_enters (s.pc + 1) true irqVector s
  exact ⟨rfl, fun s => ⟨_, rfl, (henters s).finished 7, by simp, rfl, by simp [SameSession]⟩⟩

end Sys2Proof.Machine

/-! The pushes PHA and PHP (O36), the pulls PLA and PLP (O37), and the flag instructions with NOP (O38). -/

namespace Sys2Proof.Machine

/-! ### Pushes and pulls (R230-R233) -/

/-- Settles O36: the two are one push of a byte, which is A for PHA and P with B and U set for PHP (R231). -/
theorem pushesWriteStack : Obligations.PushesWriteStack := by
  refine ⟨rfl, rfl, fun s c hc => ?_⟩
  simp only [List.mem_cons, List.not_mem_nil, or_false] at hc
  obtain rfl | rfl := hc
  all_goals
    refine ⟨_, rfl, push_byteWritten _ s, push_sp _ s, push_a _ s, push_x _ s, push_y _ s, push_pc _ s, ?_, rfl, ?_⟩
    · simpa using flagsKept_forceUnused s.p
    · simp [SameSession]

/-- Settles O37: both are the one pull, whose byte is known on a plain byte of the stack. PLA computes N and Z from it, and PLP
stores it as P, of which the end of the instruction rewrites U alone (R233). -/
theorem pullsReadStack : Obligations.PullsReadStack := by
  refine ⟨rfl, rfl, fun s => ⟨fun i hi => congrArg Prod.fst (pull_of_backing hi), ⟨_, rfl, rfl, ?pla⟩, ⟨_, rfl, ?plp⟩⟩⟩
  case pla =>
    exact ⟨.of_status (by simp), pull_sp s, pull_x s, pull_y s, pull_pc s, rfl, pull_nothingStored s⟩
  case plp =>
    exact ⟨by simp +contextual, by simp, pull_sp s, pull_a s, pull_x s, pull_y s, pull_pc s, rfl, pull_nothingStored s⟩

/-! ### Flag instructions and NOP (R234-R241) -/

/-- The shared operation of the flag instructions, on any flag but U: the end of an instruction sets that one itself. -/
theorem writeFlag_writesOneFlag {f : Flag} (hf : f ≠ .u) (on : Bool) (s : State) :
    WritesOneFlag f on s (writeFlag f on s) :=
  ⟨_, rfl, by simp [hf], (statusKept_setFlag f on s.p).flagsKept, rfl, rfl, ⟨rfl, rfl, rfl, rfl⟩, NothingStored.refl s⟩

/-- Settles O38: the seven flag instructions are one operation on four flags, and NOP is the common end alone (R241). -/
theorem flagInstructions : Obligations.FlagInstructions := by
  refine ⟨by decide, fun s => ?_⟩
  have hwrites (f : Flag) (hf : f ≠ .u) (on : Bool) := writeFlag_writesOneFlag hf on s
  exact ⟨hwrites .c nofun false, hwrites .c nofun true, hwrites .i nofun false, hwrites .i nofun true,
    hwrites .d nofun false, hwrites .d nofun true, hwrites .v nofun false,
    _, rfl, flagsKept_forceUnused s.p, rfl, rfl, ⟨rfl, rfl, rfl, rfl⟩, NothingStored.refl s⟩

end Sys2Proof.Machine

/-! The Scheduler and the DMA controller: the counters of a run of ticks (O50), the three kinds of DMA tick (O47), the parity
of its reads (O49) and a whole transfer (O48). -/

namespace Sys2Proof.Machine

/-! ### The counters (R301, R303-R305) -/

/-- A tick advances the two counters by one slot, whatever it runs: only the end of the tick writes them. -/
theorem step_counters {s t : State} (hs : step s = .next t) :
    t.cycles = s.cycles + 1 ∧ t.periphCycles = s.periphCycles + s.params.periphRatio := by
  obtain ⟨-, ⟨-, rfl⟩ | ⟨-, -, rfl⟩ | ⟨-, -, -, rfl⟩ | ⟨-, -, -, -, -, rfl⟩ | ⟨-, u, hu, rfl⟩⟩ := step_cases hs
  case inr.inr.inr.inr =>
    obtain ⟨-, -, -, hcycles, hperiph, -, hparams⟩ := exec_fetch_sameSession hu
    simp [hcycles, hperiph, hparams]
  all_goals simp

/-- A run that answers a next state made its first tick and then the rest from there. -/
theorem ticks_succ_eq_next {n : Nat} {s t : State} (h : ticks (n + 1) s = .next t) :
    ∃ u, step s = .next u ∧ ticks n u = .next t := by
  cases hs : step s with
  | next u => exact ⟨u, rfl, ticks_succ hs n ▸ h⟩
  | fault e => cases e
  | refused e => simp [ticks, hs] at h

/-- The counters after a run of ticks. -/
theorem ticks_counters {n : Nat} {s t : State} (h : ticks n s = .next t) :
    t.cycles = s.cycles + n ∧ t.periphCycles = s.periphCycles + n * s.params.periphRatio ∧ t.params = s.params := by
  induction n generalizing s with
  | zero =>
    obtain rfl := Host.Outcome.next.inj h
    simp
  | succ n ih =>
    obtain ⟨u, hs, hrest⟩ := ticks_succ_eq_next h
    obtain ⟨hcycles, hperiph⟩ := step_counters hs
    obtain ⟨hcycles', hperiph', hparams'⟩ := ih hrest
    have hparams := step_params hs
    refine ⟨by omega, ?_, hparams'.trans hparams⟩
    rw [hperiph', hperiph, hparams]
    ring

/-- Settles O50, from the counters after a run: the two differ by the ratio before it and in what it adds. -/
theorem ticksKeepRatio : Obligations.TicksKeepRatio := by
  intro n s t h
  obtain ⟨hcycles, hperiph, hparams⟩ := ticks_counters h
  refine ⟨hcycles, hperiph, fun hratio => ?_⟩
  unfold RatioHolds at *
  rw [hperiph, hcycles, hparams, hratio]
  ring

/-! ### One DMA tick (R302, R308-R310) -/

@[simp] theorem dmaStep_dmaPage (s : State) : (dmaStep s).dmaPage = s.dmaPage := by
  unfold dmaStep dmaRead dmaWrite
  simp only []
  split_ifs <;> simp

/-- From `s` to `t` the Processor, the latches and the store stood still, and so did the page of the transfer (R302). -/
structure ProcessorHeld (s t : State) : Prop where
  registers : SameRegisters s t
  status : t.p = s.p
  pc : t.pc = s.pc
  rem : t.rem = s.rem
  nmi : t.nmiPending = s.nmiPending
  irq : t.irqPending = s.irqPending
  mem : t.mem = s.mem
  page : t.dmaPage = s.dmaPage
  ready : t.ready = s.ready
  params : t.params = s.params

theorem ProcessorHeld.refl (s : State) : ProcessorHeld s s := ⟨⟨rfl, rfl, rfl, rfl⟩, rfl, rfl, rfl, rfl, rfl, rfl, rfl, rfl, rfl⟩

theorem ProcessorHeld.trans {s t u : State} (h : ProcessorHeld s t) (h' : ProcessorHeld t u) : ProcessorHeld s u := by
  obtain ⟨⟨ha, hx, hy, hsp⟩, hp, hpc, hrem, hnmi, hirq, hmem, hpage, hready, hparams⟩ := h
  obtain ⟨⟨ha', hx', hy', hsp'⟩, hp', hpc', hrem', hnmi', hirq', hmem', hpage', hready', hparams'⟩ := h'
  exact ⟨⟨ha'.trans ha, hx'.trans hx, hy'.trans hy, hsp'.trans hsp⟩, hp'.trans hp, hpc'.trans hpc, hrem'.trans hrem,
    hnmi'.trans hnmi, hirq'.trans hirq, hmem'.trans hmem, hpage'.trans hpage, hready'.trans hready, hparams'.trans hparams⟩

/-- A DMA tick holds the Processor. -/
theorem endTick_dmaStep_held (s : State) : ProcessorHeld s (endTick (dmaStep s)) := by
  constructor <;> simp [SameRegisters]

/-- Settles O47: the tick is the DMA step, whose cases are the three kinds of cycle. -/
theorem dmaTick : Obligations.DmaTick := by
  intro s hready hdma
  have held := endTick_dmaStep_held s
  have hmem : SameMemory s (endTick (dmaStep s)) := fun i => by rw [held.mem]
  refine ⟨_, step_dma hready hdma, dmaStep_dmaCount s, held.page, held.registers, held.status, held.pc, held.rem, held.nmi,
    held.irq, hmem, by simp, ?dummy, ?read, ?write⟩
  all_goals rw [endTick_dmaCount, dmaStep_dmaCount]
  case dummy =>
    intro hcount
    simp [dmaStep_dummy hcount]
  case read =>
    intro hcount hodd
    simp [dmaStep_read hcount hodd]
  case write =>
    intro hcount heven
    simp [dmaStep_write hcount heven]

/-! ### The parity of the reads (R311) -/

/-- A tick that runs a part of an instruction while the DMA is dormant leaves it so, or arms it with the right parity: the
countdown is odd or even with the cycle count before the tick (R306). -/
theorem Ran.dmaAligned {s t u : State} (hran : Ran s t) (hdormant : s.dmaCount = 0) (hcycles : u.cycles = t.cycles + 1)
    (hcount : u.dmaCount = t.dmaCount) : DmaAligned u := by
  intro hactive
  obtain ⟨-, -, -, hkept, -⟩ := hran.session
  obtain ⟨hquiet, -⟩ | ⟨harmed, -⟩ := hran.dma
  · exact absurd (hcount.trans (hquiet.trans hdormant)) hactive
  · omega

/-- Every tick keeps the alignment: a DMA tick moves the countdown and the cycle count by one each. -/
theorem step_dmaAligned {s t : State} (h : DmaAligned s) (hs : step s = .next t) : DmaAligned t := by
  obtain ⟨-, ⟨hactive, rfl⟩ | ⟨hdormant, -, rfl⟩ | ⟨hdormant, -, -, rfl⟩ | ⟨hdormant, -, -, -, -, rfl⟩ |
    ⟨⟨-, hdormant, -⟩, u, hu, rfl⟩⟩ := step_cases hs
  · intro _
    have := h hactive
    rw [endTick_cycles, endTick_dmaCount, dmaStep_cycles, dmaStep_dmaCount]
    omega
  · exact fun hactive => absurd hdormant hactive
  · exact (interruptSequence_ran s.pc false nmiVector { s with rem := 0 }).dmaAligned hdormant
      (by simp) (by simp [nmiSequence])
  · exact (interruptSequence_ran s.pc false irqVector { s with rem := 0 }).dmaAligned hdormant
      (by simp) (by simp [irqSequence])
  · exact ((fetch_ran { s with rem := 0 }).trans (exec_ran hu).1).dmaAligned hdormant rfl rfl

/-- Settles O49: the alignment is kept by every tick, and a read tick has an even countdown before it. -/
theorem dmaReadsOnEvenTicks : Obligations.DmaReadsOnEvenTicks := by
  refine ⟨fun _ _ => step_dmaAligned, fun s haligned hactive _ hodd => ?_⟩
  have := haligned hactive
  omega

/-! ### A whole transfer (R311) -/

/-- From `s` to `t` the DMA controller gave the peripheral these bytes, in order, and the Processor was held. -/
structure Delivered (bytes : List Byte) (s t : State) : Prop where
  held : ProcessorHeld s t
  low : t.dmaLow = s.dmaLow + BitVec.ofNat 8 bytes.length
  calls : t.events.map PeriphEvent.call = (bytes.map PeriphCall.oamWrite).reverse ++ s.events.map PeriphEvent.call

theorem Delivered.refl (s : State) : Delivered [] s s := ⟨.refl s, by simp, rfl⟩

theorem Delivered.trans {b c : List Byte} {s t u : State} (h : Delivered b s t) (h' : Delivered c t u) :
    Delivered (b ++ c) s u where
  held := h.held.trans h'.held
  low := by rw [h'.low, h.low, List.length_append, BitVec.ofNat_add, BitVec.add_assoc]
  calls := by rw [h'.calls, h.calls, List.map_append, List.reverse_append, List.append_assoc]

/-- A dummy tick delivers nothing. -/
theorem delivered_dmaDummy {s : State} (hcount : 512 ≤ s.dmaCount - 1) : Delivered [] s (endTick (dmaStep s)) :=
  ⟨endTick_dmaStep_held s, by simp [dmaStep_dummy hcount], by simp [dmaStep_dummy hcount]⟩

/-- A read tick on a plain page delivers nothing, and latches the byte at the source address (R309). -/
theorem delivered_dmaRead {s : State} (hcount : s.dmaCount - 1 < 512) (hodd : (s.dmaCount - 1) % 2 = 1)
    (hplain : (backing s (word s.dmaPage s.dmaLow)).isSome = true) :
    Delivered [] s (endTick (dmaStep s)) ∧ (endTick (dmaStep s)).dmaLatch = peek s (word s.dmaPage s.dmaLow) := by
  have hread := dmaStep_read hcount hodd
  rw [busRead_of_isSome hplain] at hread
  exact ⟨⟨endTick_dmaStep_held s, by simp [hread], by simp [hread]⟩, by simp [hread]⟩

/-- A write tick delivers the latch (R310). -/
theorem delivered_dmaWrite {s : State} (hcount : s.dmaCount - 1 < 512) (heven : (s.dmaCount - 1) % 2 = 0) :
    Delivered [s.dmaLatch] s (endTick (dmaStep s)) :=
  ⟨endTick_dmaStep_held s, by simp [dmaStep_write hcount heven], by simp [dmaStep_write hcount heven]⟩

/-- The dummy ticks of a transfer, before its first read. -/
theorem ticks_dmaDummies {d : Nat} {s : State} (hready : s.ready = true) (hcount : s.dmaCount = 512 + d) :
    ∃ t, ticks d s = .next t ∧ t.dmaCount = 512 ∧ Delivered [] s t := by
  induction d generalizing s with
  | zero => exact ⟨s, ticks_zero s, hcount, .refl s⟩
  | succ d ih =>
    have hdummy : Delivered [] s (endTick (dmaStep s)) := delivered_dmaDummy (by omega)
    obtain ⟨t, hticks, ht, hrest⟩ := ih (hdummy.held.ready.trans hready) (by simp [hcount])
    exact ⟨t, (ticks_succ (step_dma hready (by omega)) d).trans hticks, ht, hdummy.trans hrest⟩

/-- A read tick and the write tick after it deliver the byte at the source address. -/
theorem ticks_dmaReadWrite {s : State} {n : Nat} (hready : s.ready = true) (hcount : s.dmaCount = n + 2) (heven : n % 2 = 0)
    (hn : n < 512) (hplain : (backing s (word s.dmaPage s.dmaLow)).isSome = true) :
    ∃ t, ticks 2 s = .next t ∧ t.dmaCount = n ∧ Delivered [peek s (word s.dmaPage s.dmaLow)] s t := by
  obtain ⟨hread, hlatch⟩ := delivered_dmaRead (by omega) (by omega) hplain
  have hleft : (endTick (dmaStep s)).dmaCount = n + 1 := by simp [hcount]
  have hwrite := delivered_dmaWrite (s := endTick (dmaStep s)) (by omega) (by omega)
  rw [hlatch] at hwrite
  have hstep := step_dma (hread.held.ready.trans hready) (by omega)
  exact ⟨_, (ticks_succ (step_dma hready (by omega)) 1).trans (ticks_succ hstep 0), by simp [hcount], hread.trans hwrite⟩

/-- The bytes from an address on: those before the last one, then the last one. -/
theorem bytesAt_concat (s : State) (addr : Addr) (n : Nat) :
    bytesAt s addr (n + 1) = bytesAt s addr n ++ [peek s (addr + BitVec.ofNat 16 n)] := by
  simp [bytesAt, List.range_succ]

/-- An address of a page is the page's first address and the low byte (R309). -/
theorem word_ofNat (page : Byte) {n : Nat} (hn : n < 256) : word page (BitVec.ofNat 8 n) = word page 0 + BitVec.ofNat 16 n := by
  apply BitVec.eq_of_toNat_eq
  have := page.isLt
  simp
  omega

/-- A look at the store depends on the store and the map. -/
theorem peek_congr {s t : State} (hmem : t.mem = s.mem) (hparams : t.params = s.params) (addr : Addr) :
    peek t addr = peek s addr := by
  rw [peek, peek, backing_congr hparams, hmem]

/-- `n` pairs of a read and a write tick deliver the first `n` bytes of the page. -/
theorem ticks_dmaBytes {s : State} (hready : s.ready = true) (hcount : s.dmaCount = 512) (hlow : s.dmaLow = 0)
    (hplain : PlainFrom s (word s.dmaPage 0) 256) {n : Nat} (hn : n ≤ 256) :
    ∃ t, ticks (2 * n) s = .next t ∧ t.dmaCount = 512 - 2 * n ∧ Delivered (bytesAt s (word s.dmaPage 0) n) s t := by
  induction n with
  | zero => exact ⟨s, rfl, hcount, .refl s⟩
  | succ n ih =>
    obtain ⟨t, hticks, ht, hbytes⟩ := ih (by omega)
    have haddr : word t.dmaPage t.dmaLow = word s.dmaPage 0 + BitVec.ofNat 16 n := by
      rw [hbytes.held.page, hbytes.low, hlow, length_bytesAt, ← word_ofNat _ (by omega)]
      exact congrArg _ (BitVec.zero_add _)
    have hsource : (backing t (word t.dmaPage t.dmaLow)).isSome = true := by
      rw [haddr, backing_congr hbytes.held.params]
      exact hplain n (by omega)
    obtain ⟨u, hpair, hu, hbyte⟩ := ticks_dmaReadWrite (n := 512 - 2 * (n + 1)) (hbytes.held.ready.trans hready) (by omega)
      (by omega) (by omega) hsource
    rw [haddr, peek_congr hbytes.held.mem hbytes.held.params] at hbyte
    refine ⟨u, (ticks_add hticks 2).trans hpair, hu, ?_⟩
    rw [bytesAt_concat]
    exact hbytes.trans hbyte

/-- Settles O48: the dummy ticks deliver nothing, and the 256 pairs after them one byte of the page each. -/
theorem dmaDeliversPage : Obligations.DmaDeliversPage := by
  intro s hready harmed hlow hplain
  obtain ⟨u, hdummies, hu, hnothing⟩ := ticks_dmaDummies (d := s.dmaCount - 512) hready (by omega)
  have hulow : u.dmaLow = 0 := by simp [hnothing.low, hlow]
  have huplain : PlainFrom u (word u.dmaPage 0) 256 := fun k hk => by
    rw [hnothing.held.page, backing_congr hnothing.held.params]
    exact hplain k hk
  obtain ⟨t, hpairs, ht, hbytes⟩ := ticks_dmaBytes (n := 256) (hnothing.held.ready.trans hready) hu hulow huplain le_rfl
  have hrun := (ticks_add hdummies (2 * 256)).trans hpairs
  rw [show s.dmaCount - 512 + 2 * 256 = s.dmaCount by omega] at hrun
  have hpage : bytesAt u (word u.dmaPage 0) 256 = bytesAt s (word s.dmaPage 0) 256 := by
    simp only [bytesAt, hnothing.held.page, peek_congr hnothing.held.mem hnothing.held.params]
  obtain ⟨held, htlow, hcalls⟩ := hnothing.trans (hpage ▸ hbytes)
  refine ⟨t, hrun, ht, ?_, hcalls, (ticks_counters hrun).1, fun i => by rw [held.mem], held.registers, held.status, held.pc,
    held.rem⟩
  simp [htlow, hlow]

end Sys2Proof.Machine

/-! The dispatch of interrupts at a boundary (O43), RTI after an interrupt entry (O45), and `reset()` (O58). -/

namespace Sys2Proof.Machine

/-! ### The dispatch of interrupts (R100, R343, R344) -/

/-- The end of a boundary tick and the latches are nothing that `EntersInterrupt` speaks of. -/
theorem EntersInterrupt.dispatched {ret : Addr} {b : Bool} {vec : Addr} {s t : State} (h : EntersInterrupt ret b vec s t)
    (nmi irq : Bool) :
    EntersInterrupt ret b vec s (endTick (endInterrupt { t with nmiPending := nmi, irqPending := irq })) :=
  h.congr rfl rfl rfl rfl rfl (fun _ _ => rfl) rfl ⟨rfl, rfl, rfl, rfl⟩ rfl rfl

/-- An interrupt entry does not look at the budget, which a boundary clears before it (R100). -/
theorem EntersInterrupt.of_withRem {ret : Addr} {b : Bool} {vec : Addr} {s t : State} {n : Nat}
    (h : EntersInterrupt ret b vec { s with rem := n } t) : EntersInterrupt ret b vec s t := h

/-- Settles O43: the boundary runs the interrupt sequence on the cleared budget, and its latch and the end of the tick are
written after it. -/
theorem interruptsDispatch : Obligations.InterruptsDispatch := by
  intro s hready hdma hrem
  have henters (vec : Addr) (nmi irq : Bool) :=
    ((interruptSequence_enters s.pc false vec { s with rem := 0 }).dispatched nmi irq).of_withRem
  refine ⟨fun hnmi => ?nmi, fun hnmi hirq hunmasked => ?irq⟩
  case nmi =>
    rw [step_boundary hready hdma hrem, dispatchBoundary_nmi (s := { s with rem := 0 }) hnmi]
    exact ⟨_, rfl, henters nmiVector false _, by simp⟩
  case irq =>
    rw [step_boundary hready hdma hrem, dispatchBoundary_irq (s := { s with rem := 0 }) hnmi hirq hunmasked]
    exact ⟨_, rfl, henters irqVector _ false, by simp [hnmi]⟩

/-! ### The return from an interrupt (R351) -/

/-- Settles O45: RTI pulls from the three bytes the entry pushed to, in the opposite order, so it meets the pushed status and
the two bytes of PC; the pushed status differs from P in B and U alone (R342). -/
theorem rtiUndoesInterrupt : Obligations.RtiUndoesInterrupt := by
  intro s u vector i j k hi hj hk hij hik hjk hrti
  obtain ⟨u', hu', hplain, -, -, -, hsp, -⟩ := rtiRestores.2 (interruptSequence s.pc false vector s)
  obtain rfl := Host.Outcome.next.inj (hrti.symm.trans hu')
  have hbottom : s.sp - 3 + 1 = s.sp - 2 := by bv_omega
  have hmiddle : s.sp - 3 + 2 = s.sp - 1 := by bv_omega
  have htop : s.sp - 3 + 3 = s.sp := BitVec.sub_add_cancel _ _
  have hbacking (addr : Addr) : backing (interruptSequence s.pc false vector s) addr = backing s addr :=
    backing_congr (interruptSequence_params _ _ _ _) addr
  obtain ⟨hpc, hflags⟩ := hplain k j i (by rw [hbacking, interruptSequence_sp, hbottom, hk])
    (by rw [hbacking, interruptSequence_sp, hmiddle, hj]) (by rw [hbacking, interruptSequence_sp, htop, hi])
  rw [interruptSequence_mem_of_backing hi hj hk] at hpc hflags
  refine ⟨?pc, by rw [hsp, interruptSequence_sp, htop], fun f hb hu => ?flags⟩
  case pc => simp [hpc, hij, hik, hjk]
  case flags => simp [hflags f hu, hb, hu]

/-! ### `reset()` (R380) -/

/-- The peripheral sees no more of `reset()` than register reads, of the vector's two addresses. -/
theorem resetProcessor_onlyRegReads (s : State) : OnlyRegReads s (resetProcessor s) := by
  obtain ⟨-, -, -, hreads⟩ := readPair_nothingStored resetVector (resetVector + 1) s
  simpa [OnlyRegReads, read16] using hreads

/-- Settles O58, field by field: `reset()` writes registers and latches around the one read of the vector. -/
theorem resetSequence : Obligations.ResetSequence := by
  intro s t
  refine ⟨resetProcessor_sp s, resetProcessor_p s, resetProcessor_pc s, resetProcessor_rem s, rfl, ?cleared, ?kept,
    resetProcessor_a s, resetProcessor_x s, resetProcessor_y s, resetProcessor_cycles s, resetProcessor_periphCycles s,
    ?dma, ?memory, resetProcessor_onlyRegReads s, resetProcessor_events s, resetProcessor_draws s, resetProcessor_params s⟩
  case cleared => intro hclears; simp [t, hclears]
  case kept => intro hkeeps; simp [t, hkeeps]
  case dma => simp [t, SameDma]
  case memory => simp [t, SameMemory]

end Sys2Proof.Machine
